-- ==== Sys2Proof/Word.lean ====
section
/-! DEFINITION. The word types of the CHIP-8 core (00_scope.md R9): bytes, 16-bit words, and the
nibble and 12-bit fields of an opcode (30_encoding.md R81). All values are unsigned. -/

namespace Sys2Proof

/-- A `u8`: a general register, a timer, a byte of memory, an immediate `kk`. -/
abbrev Byte := BitVec 8

/-- A `u16`: the index register, the program counter, a return address, an opcode. -/
abbrev Word := BitVec 16

/-- A `u4`: one nibble of an opcode. -/
abbrev Nibble := BitVec 4

/-- The index of a general register, `V0` to `VF`. -/
abbrev Reg := BitVec 4

/-- The 12-bit address immediate `nnn`. -/
abbrev Addr := BitVec 12

end Sys2Proof
end

