-- ==== Sys2Proof/Syntax.lean ====
section
/-! DEFINITION. The 35 instructions of 30_encoding.md R86, one constructor per row of
spec/opcode_table.json, in the table's order. Operand types are exactly the encoding's field widths
(R81): every value of a field is legal (R82). The field `y` of SHR and SHL is no operand: every
value of it decodes to the same instruction (R85; log entry 13). -/

namespace Sys2Proof

inductive Instr where
  /-- 0000 `NOP`. -/
  | nop
  /-- 00E0 `CLS`. -/
  | cls
  /-- 00EE `RET`. -/
  | ret
  /-- 1nnn `JP nnn`. -/
  | jp (nnn : Addr)
  /-- 2nnn `CALL nnn`. -/
  | call (nnn : Addr)
  /-- 3xkk `SE Vx, kk`. -/
  | seByte (x : Reg) (kk : Byte)
  /-- 4xkk `SNE Vx, kk`. -/
  | sneByte (x : Reg) (kk : Byte)
  /-- 5xy0 `SE Vx, Vy`. -/
  | seReg (x y : Reg)
  /-- 6xkk `LD Vx, kk`. -/
  | ldByte (x : Reg) (kk : Byte)
  /-- 7xkk `ADD Vx, kk`. -/
  | addByte (x : Reg) (kk : Byte)
  /-- 8xy0 `LD Vx, Vy`. -/
  | ldReg (x y : Reg)
  /-- 8xy1 `OR Vx, Vy`. -/
  | or (x y : Reg)
  /-- 8xy2 `AND Vx, Vy`. -/
  | and (x y : Reg)
  /-- 8xy3 `XOR Vx, Vy`. -/
  | xor (x y : Reg)
  /-- 8xy4 `ADD Vx, Vy`. -/
  | addReg (x y : Reg)
  /-- 8xy5 `SUB Vx, Vy`. -/
  | sub (x y : Reg)
  /-- 8xy6 `SHR Vx`. -/
  | shr (x : Reg)
  /-- 8xy7 `SUBN Vx, Vy`. -/
  | subn (x y : Reg)
  /-- 8xyE `SHL Vx`. -/
  | shl (x : Reg)
  /-- 9xy0 `SNE Vx, Vy`. -/
  | sneReg (x y : Reg)
  /-- Annn `LD I, nnn`. -/
  | ldI (nnn : Addr)
  /-- Bnnn `JP V0, nnn`. -/
  | jpV0 (nnn : Addr)
  /-- Cxkk `RND Vx, kk`. -/
  | rnd (x : Reg) (kk : Byte)
  /-- Dxyn `DRW Vx, Vy, n`. -/
  | drw (x y : Reg) (n : Nibble)
  /-- Ex9E `SKP Vx`. -/
  | skp (x : Reg)
  /-- ExA1 `SKNP Vx`. -/
  | sknp (x : Reg)
  /-- Fx07 `LD Vx, DT`. -/
  | ldFromDt (x : Reg)
  /-- Fx0A `LD Vx, K`. -/
  | ldKey (x : Reg)
  /-- Fx15 `LD DT, Vx`. -/
  | ldToDt (x : Reg)
  /-- Fx18 `LD ST, Vx`. -/
  | ldToSt (x : Reg)
  /-- Fx1E `ADD I, Vx`. -/
  | addI (x : Reg)
  /-- Fx29 `LD F, Vx`. -/
  | ldFont (x : Reg)
  /-- Fx33 `LD B, Vx`. -/
  | ldBcd (x : Reg)
  /-- Fx55 `LD [I], Vx`. -/
  | storeRegs (x : Reg)
  /-- Fx65 `LD Vx, [I]`. -/
  | loadRegs (x : Reg)
  deriving DecidableEq, Repr

end Sys2Proof
end

