-- ==== Sys2Proof/Decode.lean ====
section
/-! DEFINITION. The decoder and, after it, the encoder (30_encoding.md R80 to R87). -/

namespace Sys2Proof

/-- The major opcode `d1`, bits 15:12 (30_encoding.md R81). -/
def fieldD1 (op : Word) : Nibble := op.extractLsb' 12 4

/-- The field `d2 = x`, bits 11:8 (30_encoding.md R81). -/
def fieldX (op : Word) : Reg := op.extractLsb' 8 4

/-- The field `d3 = y`, bits 7:4 (30_encoding.md R81). -/
def fieldY (op : Word) : Reg := op.extractLsb' 4 4

/-- The field `d4 = n`, bits 3:0 (30_encoding.md R81). -/
def fieldN (op : Word) : Nibble := op.extractLsb' 0 4

/-- The byte `kk`, bits 7:0 (30_encoding.md R81). -/
def fieldKk (op : Word) : Byte := op.extractLsb' 0 8

/-- The address `nnn`, bits 11:0 (30_encoding.md R81). -/
def fieldNnn (op : Word) : Addr := op.extractLsb' 0 12

/-- The words with `d1 = 0`: three exact words (30_encoding.md R86). -/
def decodeSystem (op : Word) : Option Instr :=
  if op = 0x0000 then some .nop
  else if op = 0x00E0 then some .cls
  else if op = 0x00EE then some .ret
  else none

/-- The words with `d1 = 8`, told apart by `d4` (30_encoding.md R86). SHR and SHL do not read `y` (R85). -/
def decodeAlu (x y : Reg) (n : Nibble) : Option Instr :=
  if n = 0x0 then some (.ldReg x y)
  else if n = 0x1 then some (.or x y)
  else if n = 0x2 then some (.and x y)
  else if n = 0x3 then some (.xor x y)
  else if n = 0x4 then some (.addReg x y)
  else if n = 0x5 then some (.sub x y)
  else if n = 0x6 then some (.shr x)
  else if n = 0x7 then some (.subn x y)
  else if n = 0xE then some (.shl x)
  else none

/-- The words with `d1 = E`, told apart by `kk` (30_encoding.md R86). -/
def decodeKeySkip (x : Reg) (kk : Byte) : Option Instr :=
  if kk = 0x9E then some (.skp x)
  else if kk = 0xA1 then some (.sknp x)
  else none

/-- The words with `d1 = F`, told apart by `kk` (30_encoding.md R86). -/
def decodeMisc (x : Reg) (kk : Byte) : Option Instr :=
  if kk = 0x07 then some (.ldFromDt x)
  else if kk = 0x0A then some (.ldKey x)
  else if kk = 0x15 then some (.ldToDt x)
  else if kk = 0x18 then some (.ldToSt x)
  else if kk = 0x1E then some (.addI x)
  else if kk = 0x29 then some (.ldFont x)
  else if kk = 0x33 then some (.ldBcd x)
  else if kk = 0x55 then some (.storeRegs x)
  else if kk = 0x65 then some (.loadRegs x)
  else none

/-- The instruction of an opcode; `none` is the spec's UnimplementedOpcode (30_encoding.md R83, R87). -/
def decode (op : Word) : Option Instr :=
  if fieldD1 op = 0x0 then decodeSystem op
  else if fieldD1 op = 0x1 then some (.jp (fieldNnn op))
  else if fieldD1 op = 0x2 then some (.call (fieldNnn op))
  else if fieldD1 op = 0x3 then some (.seByte (fieldX op) (fieldKk op))
  else if fieldD1 op = 0x4 then some (.sneByte (fieldX op) (fieldKk op))
  else if fieldD1 op = 0x5 then
    if fieldN op = 0x0 then some (.seReg (fieldX op) (fieldY op)) else none
  else if fieldD1 op = 0x6 then some (.ldByte (fieldX op) (fieldKk op))
  else if fieldD1 op = 0x7 then some (.addByte (fieldX op) (fieldKk op))
  else if fieldD1 op = 0x8 then decodeAlu (fieldX op) (fieldY op) (fieldN op)
  else if fieldD1 op = 0x9 then
    if fieldN op = 0x0 then some (.sneReg (fieldX op) (fieldY op)) else none
  else if fieldD1 op = 0xA then some (.ldI (fieldNnn op))
  else if fieldD1 op = 0xB then some (.jpV0 (fieldNnn op))
  else if fieldD1 op = 0xC then some (.rnd (fieldX op) (fieldKk op))
  else if fieldD1 op = 0xD then some (.drw (fieldX op) (fieldY op) (fieldN op))
  else if fieldD1 op = 0xE then decodeKeySkip (fieldX op) (fieldKk op)
  else decodeMisc (fieldX op) (fieldKk op)

/-- Why a list of bytes holds no instruction. -/
inductive DecodeError where
  /-- Fewer than the two bytes of an opcode (30_encoding.md R80). -/
  | tooShort
  /-- No pattern covers the word: the spec's UnimplementedOpcode (30_encoding.md R87). -/
  | unimplementedOpcode (op : Word)
  deriving DecidableEq, Repr

/-- The word of two adjacent bytes, the first in bits 15:8 (20_memory.md R54). -/
def wordOfBytes (hi lo : Byte) : Word := hi ++ lo

/-- The two bytes of a word in the order they stand in memory (20_memory.md R54). -/
def bytesOfWord (op : Word) : List Byte := [op.extractLsb' 8 8, op.extractLsb' 0 8]

/-- The decoder on any bytes, which gives the instruction and the bytes after it. -/
def decodeBytes : List Byte → Except DecodeError (Instr × List Byte)
  | hi :: lo :: rest =>
    match decode (wordOfBytes hi lo) with
    | some i => .ok (i, rest)
    | none => .error (.unimplementedOpcode (wordOfBytes hi lo))
  | _ => .error .tooShort

/-- The word of the low `nbits` bits of `w`, every higher bit 0. -/
def tableWord (nbits w : Nat) : Word := BitVec.ofNat 16 (w % 2 ^ nbits)

/-- What the decoder reads from an instruction whose bits are `w`, laid out in memory as the
hardware stores it, high byte first (20_memory.md R54). -/
def decodeTableWord (nbits w : Nat) : Option Instr :=
  match decodeBytes (bytesOfWord (tableWord nbits w)) with
  | .ok (i, _) => some i
  | .error _ => none

/-- The layout `d1|nnn` of 30_encoding.md R81. -/
def packNnn (d1 : Nibble) (nnn : Addr) : Word := d1 ++ nnn

/-- The layout `d1|x|kk` of 30_encoding.md R81. -/
def packXKk (d1 : Nibble) (x : Reg) (kk : Byte) : Word := d1 ++ x ++ kk

/-- The layout `d1|x|y|n` of 30_encoding.md R81. -/
def packXYN (d1 : Nibble) (x y : Reg) (n : Nibble) : Word := d1 ++ x ++ y ++ n

/-- The word of an instruction (30_encoding.md R86). SHR and SHL get 0 in the field they ignore, as
the assembler puts it when `Vy` is omitted (R90; log entry 13). -/
def encode : Instr → Word
  | .nop => 0x0000
  | .cls => 0x00E0
  | .ret => 0x00EE
  | .jp nnn => packNnn 0x1 nnn
  | .call nnn => packNnn 0x2 nnn
  | .seByte x kk => packXKk 0x3 x kk
  | .sneByte x kk => packXKk 0x4 x kk
  | .seReg x y => packXYN 0x5 x y 0x0
  | .ldByte x kk => packXKk 0x6 x kk
  | .addByte x kk => packXKk 0x7 x kk
  | .ldReg x y => packXYN 0x8 x y 0x0
  | .or x y => packXYN 0x8 x y 0x1
  | .and x y => packXYN 0x8 x y 0x2
  | .xor x y => packXYN 0x8 x y 0x3
  | .addReg x y => packXYN 0x8 x y 0x4
  | .sub x y => packXYN 0x8 x y 0x5
  | .shr x => packXYN 0x8 x 0x0 0x6
  | .subn x y => packXYN 0x8 x y 0x7
  | .shl x => packXYN 0x8 x 0x0 0xE
  | .sneReg x y => packXYN 0x9 x y 0x0
  | .ldI nnn => packNnn 0xA nnn
  | .jpV0 nnn => packNnn 0xB nnn
  | .rnd x kk => packXKk 0xC x kk
  | .drw x y n => packXYN 0xD x y n
  | .skp x => packXKk 0xE x 0x9E
  | .sknp x => packXKk 0xE x 0xA1
  | .ldFromDt x => packXKk 0xF x 0x07
  | .ldKey x => packXKk 0xF x 0x0A
  | .ldToDt x => packXKk 0xF x 0x15
  | .ldToSt x => packXKk 0xF x 0x18
  | .addI x => packXKk 0xF x 0x1E
  | .ldFont x => packXKk 0xF x 0x29
  | .ldBcd x => packXKk 0xF x 0x33
  | .storeRegs x => packXKk 0xF x 0x55
  | .loadRegs x => packXKk 0xF x 0x65

end Sys2Proof
end

