-- ==== Sys2Proof/Config.lean ====
section
/-! DEFINITION. The parameters the spec leaves to the model (00_scope.md R8) and its one free value.
`Config.spec` holds the values the spec itself gives. STEP_RATE and TIMER_RATE are no fields: no
rule depends on them (92_eei_decisions.md D14; log entry 10). -/

namespace Sys2Proof

/-- The parameters a claim names: the entry point (10_state.md R36) and the font table
(20_memory.md R59). -/
structure Config where
  /-- RESET_PC: what construction and RESET put into `PC`. -/
  resetPc : Word
  /-- FONT: the 80 bytes at 0x000 to 0x04F after construction and RESET. -/
  font : Vector Byte 80
  deriving DecidableEq, Repr

/-- The conventional CHIP-8 font, the default of FONT (20_memory.md R59), one row a digit.
PRESUMED by the spec from general knowledge: unsafe, log entry 5. -/
def Config.conventionalFont : Vector Byte 80 := #v[
  0xF0, 0x90, 0x90, 0x90, 0xF0,
  0x20, 0x60, 0x20, 0x20, 0x70,
  0xF0, 0x10, 0xF0, 0x80, 0xF0,
  0xF0, 0x10, 0xF0, 0x10, 0xF0,
  0x90, 0x90, 0xF0, 0x10, 0x10,
  0xF0, 0x80, 0xF0, 0x10, 0xF0,
  0xF0, 0x80, 0xF0, 0x90, 0xF0,
  0xF0, 0x10, 0x20, 0x40, 0x40,
  0xF0, 0x90, 0xF0, 0x90, 0xF0,
  0xF0, 0x90, 0xF0, 0x10, 0xF0,
  0xF0, 0x90, 0xF0, 0x90, 0x90,
  0xE0, 0x90, 0xE0, 0x90, 0xE0,
  0xF0, 0x80, 0x80, 0x80, 0xF0,
  0xE0, 0x90, 0x90, 0x90, 0xE0,
  0xF0, 0x80, 0xF0, 0x80, 0xF0,
  0xF0, 0x80, 0xF0, 0x80, 0x80]

/-- The spec's own values: RESET_PC 0x200 (10_state.md R36, DESIGN CHOICE of the spec's D1: unsafe,
log entry 6) and the conventional font. -/
def Config.spec : Config := { resetPc := 0x200, font := Config.conventionalFont }

/-- The random byte of the `k`-th use by Cxkk: a free value, any byte (00_scope.md R14,
40_alu.md R112; log entry 1). It has no body, so no proof can learn what it is. -/
opaque Config.rnd : Nat → Byte

/-- MEM_SIZE: the addresses are 0x000 to 0xFFF (20_memory.md R50). -/
def Config.memSize : Nat := 0x1000

/-- PROGRAM_BASE: where LOAD puts the program's first byte (70_reset_and_hazards.md R244). -/
def Config.programBase : Nat := 0x200

/-- MAX_PROGRAM: the longest program LOAD accepts, in bytes (70_reset_and_hazards.md R244). -/
def Config.maxProgram : Nat := 0x0E00

end Sys2Proof
end

