-- ==== Sys2Proof/Machine/State.lean ====
section
/-! DEFINITION. The state of one core (10_state.md R20), the reasons it can fault, and the state after
construction and RESET (10_state.md R42). -/

namespace Sys2Proof.Machine

/-- The fault causes of 60_exceptions.md R201. Every one is TAKEN: fault entry (R203) writes the four
fault registers and gives a next state, so no step and no meaning ends in `Host.Outcome.fault`; the
type names the cause at fault entry and fills that outcome's slot (log entry 2). Each is safe: the
spec names it. -/
inductive Fault where
  /-- Raised by fetch when `PC > 0xFFE` (20_memory.md R53). Safe. -/
  | fetchError
  /-- Raised by decode for every word no pattern covers (30_encoding.md R87). Safe. -/
  | unimplementedOpcode
  /-- Raised by CALL with `SP = 16` (42_control.md R154). Safe. -/
  | stackOverflow
  /-- Raised by RET with `SP = 0` (42_control.md R152). Safe. -/
  | stackUnderflow
  /-- Raised by DRW, LD B, LD [I], Vx and LD Vx, [I] addressing above 0xFFF (20_memory.md R52). Safe. -/
  | memoryBounds
  /-- Raised by SKP and SKNP with `Vx > 15` (44_keys_timers.md R180). Safe. -/
  | keyIndex
  deriving DecidableEq, Repr

/-- Why a step is refused. No instruction of this core is refused. -/
inductive Refusal where
  /-- Answered by an arm of `exec` whose instruction has no meaning yet; safe. No arm does. -/
  | notModelled (mnemonic : String)
  deriving DecidableEq, Repr

/-- The memory of 20_memory.md R50 as the list of the bytes that differ from what an unlisted address
reads as, addresses strictly rising (log entry 7). -/
abbrev Memory := List Host.Cell

/-- The framebuffer of 10_state.md R31: 32 rows of 64 pixels, `true` a set pixel. -/
abbrev Framebuffer := Vector (Vector Bool 64) 32

/-- The keypad state of 10_state.md R32, `true` meaning pressed. -/
abbrev Keys := Vector Bool 16

/-- The architectural state, the tuple of 10_state.md R20, and the model's own `draws`. -/
structure State where
  /-- MEM (20_memory.md R50). -/
  mem : Memory
  /-- V0 to VF (10_state.md R22). -/
  v : Vector Byte 16
  /-- I (10_state.md R25). -/
  i : Word
  /-- PC (10_state.md R26): during execute it is already past the instruction. -/
  pc : Word
  /-- STACK[0] to STACK[15] (10_state.md R29). -/
  stack : Vector Word 16
  /-- SP, the number of occupied slots, 0 to 16 (10_state.md R29). -/
  sp : Fin 17
  /-- DT (10_state.md R30). -/
  dt : Byte
  /-- ST (10_state.md R30). -/
  st : Byte
  /-- FB (10_state.md R31). -/
  fb : Framebuffer
  /-- KEY (10_state.md R32). -/
  key : Keys
  /-- HALTED (10_state.md R33). -/
  halted : Bool
  /-- FAULT_CAUSE (10_state.md R33), a code of 60_exceptions.md R201. -/
  faultCause : Byte
  /-- FAULT_PC (10_state.md R33). -/
  faultPc : Word
  /-- FAULT_OPCODE (10_state.md R33). -/
  faultOpcode : Word
  /-- The model's own field, not the spec's: how many random bytes Cxkk has used (log entry 1). -/
  draws : Nat
  deriving DecidableEq, Repr

/-- The state after construction and RESET with the spec's parameters (10_state.md R35 to R42): memory
lists nothing, so it reads as zero but for the font (20_memory.md R61). `draws := 0` is a DESIGN CHOICE
on the model's own counter (log entry 1). -/
def State.reset : State where
  mem := []
  v := Vector.replicate 16 0
  i := 0
  pc := Config.spec.resetPc
  stack := Vector.replicate 16 0
  sp := 0
  dt := 0
  st := 0
  fb := Vector.replicate 32 (Vector.replicate 64 false)
  key := Vector.replicate 16 false
  halted := false
  faultCause := 0
  faultPc := 0
  faultOpcode := 0
  draws := 0

end Sys2Proof.Machine
end

