-- ==== Sys2Proof/Machine/Ops.lean ====
section
/-! DEFINITION. The named operations over memory, registers, stack and framebuffer, and fault entry. -/

namespace Sys2Proof.Machine

/-! ### Memory (20_memory.md) -/

/-- What an unlisted address reads as: the contents after construction and RESET with the spec's FONT,
the font at 0x000 to 0x04F and 0 elsewhere (20_memory.md R58, R59, R61; log entries 5 and 7). -/
def Memory.initial (a : Nat) : Byte :=
  if h : a < 80 then Config.spec.font[a] else 0

/-- The byte at an address: `MEM[a]` of 20_memory.md R52, after its check. -/
def Memory.read : Memory → Nat → Byte
  | [], a => Memory.initial a
  | (k, b) :: rest, a => if k = a then b else Memory.read rest a

/-- Puts a cell before the first cell with a higher address. -/
def Memory.insertCell (a : Nat) (b : Byte) : Memory → Memory
  | [] => [(a, b)]
  | (k, c) :: rest =>
    if a < k then (a, b) :: (k, c) :: rest else (k, c) :: Memory.insertCell a b rest

/-- `MEM[a] <- b` of 20_memory.md R52, after its check; the list stays in canonical form. -/
def Memory.write (m : Memory) (a : Nat) (b : Byte) : Memory :=
  if b = Memory.initial a then m.filter (fun c => c.1 ≠ a)
  else Memory.insertCell a b (m.filter (fun c => c.1 ≠ a))

/-- Stores bytes at consecutive addresses, upward from `a`. -/
def Memory.writeBytes (m : Memory) (a : Nat) : List Byte → Memory
  | [] => m
  | b :: rest => Memory.writeBytes (m.write a b) (a + 1) rest

/-- The canonical form: addresses strictly rising and inside the address space (20_memory.md R50), and
no entry equal to what the address reads as unlisted. -/
abbrev Memory.wf (m : Memory) : Prop :=
  (m.map Prod.fst).Pairwise (· < ·) ∧
    ∀ c ∈ m, c.1 < Config.memSize ∧ c.2 ≠ Memory.initial c.1

/-- The address check `check(addr)` of 20_memory.md R52 on every address `base` to `base + count - 1`,
made before any access (R57). The addresses are unbounded integers. -/
def addressesValid (base count : Nat) : Bool :=
  (List.range count).all (fun r => base + r ≤ 0xFFF)

/-! ### Registers (10_state.md) -/

/-- `V[r]` (10_state.md R22). -/
def State.reg (s : State) (r : Reg) : Byte := s.v[r.toNat]'r.isLt

/-- `V[r] <- b` (10_state.md R22). -/
def State.setReg (s : State) (r : Reg) (b : Byte) : State := { s with v := s.v.set r.toNat b r.isLt }

/-- `VF`, the flag register (10_state.md R23). -/
def vf : Reg := 0xF

/-- `I <- w` (10_state.md R25). -/
def State.setI (s : State) (w : Word) : State := { s with i := w }

/-- `PC <- w` (10_state.md R26). -/
def State.setPc (s : State) (w : Word) : State := { s with pc := w }

/-- `DT <- b` (10_state.md R30). -/
def State.setDt (s : State) (b : Byte) : State := { s with dt := b }

/-- `ST <- b` (10_state.md R30). -/
def State.setSt (s : State) (b : Byte) : State := { s with st := b }

/-- Replaces the framebuffer (10_state.md R31). -/
def State.setFb (s : State) (fb : Framebuffer) : State := { s with fb := fb }

/-- Replaces the whole key state (60_exceptions.md R226). -/
def State.setKeys (s : State) (k : Keys) : State := { s with key := k }

/-- `MEM[a] <- b` (20_memory.md R52). -/
def State.store (s : State) (a : Nat) (bytes : List Byte) : State :=
  { s with mem := s.mem.writeBytes a bytes }

/-- `MEM[a]` (20_memory.md R52). -/
def State.load (s : State) (a : Nat) : Byte := s.mem.read a

/-- `V[j] <- bytes j` for every `j` in 0..x (41_transfer.md R136). -/
def State.setRegsThrough (s : State) (x : Reg) (bytes : Nat → Byte) : State :=
  { s with v := Vector.ofFn fun j : Fin 16 => if j.val ≤ x.toNat then bytes j.val else s.v[j.val] }

/-- `V[0]` to `V[x]`, in order (41_transfer.md R135). -/
def State.regsThrough (s : State) (x : Reg) : List Byte := s.v.toList.take (x.toNat + 1)

/-! ### Call stack (10_state.md R29) -/

/-- Push with `SP < 16`: writes `STACK[SP]`, then increments `SP`. -/
def State.push (s : State) (w : Word) : State :=
  { s with stack := s.stack.setIfInBounds s.sp.val w, sp := Fin.ofNat 17 (s.sp.val + 1) }

/-- The entry a pop reads, with `SP > 0`: `STACK[SP - 1]`. -/
def State.top (s : State) : Word := s.stack[s.sp.val - 1]'(by have := s.sp.isLt; omega)

/-- Pop with `SP > 0`: decrements `SP`; the slot keeps its value. -/
def State.drop (s : State) : State :=
  { s with sp := Fin.ofNat 17 (s.sp.val - 1) }

/-! ### Framebuffer (10_state.md R31, 43_draw.md R170) -/

/-- The pixel at column `x`, row `y`; both coordinates wrap (43_draw.md R170). -/
def Framebuffer.pixel (fb : Framebuffer) (x y : Nat) : Bool :=
  (fb[y % 32]'(Nat.mod_lt y (by decide)))[x % 64]'(Nat.mod_lt x (by decide))

/-- XORs a set sprite bit into the pixel at column `x`, row `y`, wrapping (43_draw.md R172). -/
def Framebuffer.flip (fb : Framebuffer) (x y : Nat) : Framebuffer :=
  fb.set (y % 32)
    ((fb[y % 32]'(Nat.mod_lt y (by decide))).set (x % 64) (!fb.pixel x y) (Nat.mod_lt x (by decide)))
    (Nat.mod_lt y (by decide))

/-- Every pixel false (43_draw.md R171). -/
def Framebuffer.blank : Framebuffer := Vector.replicate 32 (Vector.replicate 64 false)

/-- Draws one set sprite bit: remembers a pixel that goes from set to unset (43_draw.md R172). -/
def plotBit (d : Framebuffer × Bool) (x y : Nat) : Framebuffer × Bool :=
  (d.1.flip x y, d.2 || d.1.pixel x y)

/-- Draws one sprite row: bit `7 - c` at column `x0 + c`, bit 7 leftmost (43_draw.md R170, R172; PRESUMED by the spec's
D9: unsafe, log entry 15). -/
def drawRow (row : Byte) (x0 y : Nat) (d : Framebuffer × Bool) : Framebuffer × Bool :=
  (List.range 8).foldl (fun d c => if row.getLsbD (7 - c) then plotBit d (x0 + c) y else d) d

/-- Draws `n` sprite rows of memory from address `base`: the framebuffer after, and whether any pixel
went from set to unset (43_draw.md R172). -/
def drawSprite (m : Memory) (base n x0 y0 : Nat) (fb : Framebuffer) : Framebuffer × Bool :=
  (List.range n).foldl (fun d r => drawRow (m.read (base + r)) x0 (y0 + r) d) (fb, false)

/-! ### Keypad (10_state.md R32) -/

/-- Whether the key a byte names is pressed: `KEY[k] = 1` (44_keys_timers.md R181). A byte above 15 names none; SKP and
SKNP fault on it before they ask. -/
def State.keyDown (s : State) (k : Byte) : Bool := s.key.toList[k.toNat]? = some true

/-- The lowest-indexed pressed key, if any is pressed (44_keys_timers.md R184). -/
def Keys.lowest (k : Keys) : Option Nat := k.toList.findIdx? (fun p => p)

/-! ### Fault entry (60_exceptions.md) -/

/-- The code of a fault cause (60_exceptions.md R201). -/
def Fault.code : Fault → Byte
  | .fetchError => 1
  | .unimplementedOpcode => 2
  | .stackOverflow => 3
  | .stackUnderflow => 4
  | .memoryBounds => 5
  | .keyIndex => 6

/-- Fault entry (60_exceptions.md R203): the core halts and records the cause, the address `a` and the
word `op`; nothing else is written (R206). There is no return from it but RESET (R208). -/
def State.raise (s : State) (f : Fault) (a op : Word) : State :=
  { s with halted := true, faultCause := f.code, faultPc := a, faultOpcode := op }

/-- `raise F` inside execute (00_scope.md R13): there PC is the instruction's address plus 2, which fault
entry leaves, so the address recorded is `PC - 2`, and the word recorded is the instruction's own (60_exceptions.md R201,
R206; log entry 4). -/
def raiseIn (f : Fault) (i : Instr) (s : State) : Host.Outcome State Fault Refusal :=
  .next (s.raise f (s.pc - 2) (encode i))

end Sys2Proof.Machine
end

