-- ==== Sys2Proof/Machine/Cycle.lean ====
section
/-! DEFINITION. Instruction fetch and the fetch-decode-execute cycle of a STEP (20_memory.md R53;
60_exceptions.md R224). -/

namespace Sys2Proof.Machine

/-- The word at addresses `a` and `a + 1`, big-endian (20_memory.md R53, R54). -/
def State.wordAt (s : State) (a : Nat) : Word := wordOfBytes (s.load a) (s.load (a + 1))

/-- `Fetch16` (20_memory.md R53): the opcode at PC, or `none` for FETCH_ERROR. -/
def State.fetch (s : State) : Option Word :=
  if 0xFFE < s.pc.toNat then none else some (s.wordAt s.pc.toNat)

/-- The state fetch leaves when it succeeds: PC advanced by 2 (20_memory.md R53). -/
def State.fetched (s : State) : State := s.setPc (s.pc + 2)

/-- One STEP with the execute stage given (60_exceptions.md R224). A halted core does nothing (R207; log entry 3). A
fetch fault leaves PC; a decode fault leaves it advanced (R206). -/
def cycle (run : Instr → State → Host.Outcome State Fault Refusal) (s : State) :
    Host.Outcome State Fault Refusal :=
  if s.halted then .next s
  else
    match s.fetch with
    | none => .next (s.raise .fetchError s.pc 0)
    | some op =>
      match decode op with
      | none => .next (s.fetched.raise .unimplementedOpcode s.pc op)
      | some i => run i s.fetched

/-- Stores the instruction whose bits are `w` at the PC, high byte first, where the next fetch reads it. A PC
that cannot be fetched from leaves the state alone (log entry 12). -/
def placeAtPc (s : State) (nbits w : Nat) : State :=
  if 0xFFE < s.pc.toNat then s else s.store s.pc.toNat (bytesOfWord (tableWord nbits w))

end Sys2Proof.Machine
end

