-- ==== Sys2Proof/Machine/Flags.lean ====
section
/-! DEFINITION. The values written into VF (10_state.md R23; 40_alu.md R107 to R111; 43_draw.md R172). -/

namespace Sys2Proof.Machine

/-- A truth value as the byte 1 or 0. -/
def flagByte (b : Bool) : Byte := if b then 1 else 0

/-- The carry out of bit 7 of a sum: 1 when the exact sum is at least 256 (40_alu.md R107). -/
def carryFlag (a b : Byte) : Byte := flagByte (256 ≤ a.toNat + b.toNat)

/-- NOT borrow of `a - b`: 1 when `a >= b` (40_alu.md R108, R110). -/
def noBorrowFlag (a b : Byte) : Byte := flagByte (b.toNat ≤ a.toNat)

/-- The bit SHR shifts out (40_alu.md R109). -/
def lowBitFlag (a : Byte) : Byte := flagByte (a.getLsbD 0)

/-- The bit SHL shifts out (40_alu.md R111). -/
def highBitFlag (a : Byte) : Byte := flagByte (a.getLsbD 7)

/-- Writes the result first and the flag last, so that with `x = F` VF ends as the flag
(40_alu.md R100; 92_eei_decisions.md D2). -/
def State.setResultAndFlag (s : State) (x : Reg) (result flag : Byte) : State :=
  (s.setReg x result).setReg vf flag

end Sys2Proof.Machine
end

