-- ==== Sys2Proof/Machine/Operands.lean ====
section
/-! DEFINITION. Operand forms: zero extension, the address `I + r`, and the skip. -/

namespace Sys2Proof.Machine

/-- `zext_16` of a byte (00_scope.md R10). -/
def zextByte (b : Byte) : Word := b.setWidth 16

/-- `zext_16(nnn)` (30_encoding.md R82). -/
def zextAddr (nnn : Addr) : Word := nnn.setWidth 16

/-- `I` as the unbounded integer a data address is computed from (20_memory.md R52). -/
def State.indexAddr (s : State) : Nat := s.i.toNat

/-- `skip` (00_scope.md R13): `PC <- PC + 2` on the PC fetch has already advanced, when the condition holds. -/
def State.skipIf (s : State) (condition : Bool) : State :=
  if condition then s.setPc (s.pc + 2) else s

end Sys2Proof.Machine
end

