-- ==== Sys2Proof/Machine/Alu.lean ====
section
/-! DEFINITION. The arithmetic and logic instructions (40_alu.md). Each leaves PC as fetch left it. -/

namespace Sys2Proof.Machine

/-- 6xkk `LD Vx, kk` (40_alu.md R101). -/
def execLdByte (x : Reg) (kk : Byte) (s : State) : Host.Outcome State Fault Refusal :=
  .next (s.setReg x kk)

/-- 7xkk `ADD Vx, kk`: wraps, no flag (40_alu.md R102). -/
def execAddByte (x : Reg) (kk : Byte) (s : State) : Host.Outcome State Fault Refusal :=
  .next (s.setReg x (s.reg x + kk))

/-- 8xy0 `LD Vx, Vy` (40_alu.md R103). -/
def execLdReg (x y : Reg) (s : State) : Host.Outcome State Fault Refusal :=
  .next (s.setReg x (s.reg y))

/-- 8xy1 `OR Vx, Vy`: VF is not written (40_alu.md R104). -/
def execOr (x y : Reg) (s : State) : Host.Outcome State Fault Refusal :=
  .next (s.setReg x (s.reg x ||| s.reg y))

/-- 8xy2 `AND Vx, Vy`: VF is not written (40_alu.md R105). -/
def execAnd (x y : Reg) (s : State) : Host.Outcome State Fault Refusal :=
  .next (s.setReg x (s.reg x &&& s.reg y))

/-- 8xy3 `XOR Vx, Vy`: VF is not written (40_alu.md R106). -/
def execXor (x y : Reg) (s : State) : Host.Outcome State Fault Refusal :=
  .next (s.setReg x (s.reg x ^^^ s.reg y))

/-- 8xy4 `ADD Vx, Vy`: VF is the carry (40_alu.md R107). -/
def execAddReg (x y : Reg) (s : State) : Host.Outcome State Fault Refusal :=
  .next (s.setResultAndFlag x (s.reg x + s.reg y) (carryFlag (s.reg x) (s.reg y)))

/-- 8xy5 `SUB Vx, Vy`: VF is NOT borrow (40_alu.md R108). -/
def execSub (x y : Reg) (s : State) : Host.Outcome State Fault Refusal :=
  .next (s.setResultAndFlag x (s.reg x - s.reg y) (noBorrowFlag (s.reg x) (s.reg y)))

/-- 8xy6 `SHR Vx`: VF is the bit shifted out; `y` is not read (40_alu.md R109). -/
def execShr (x : Reg) (s : State) : Host.Outcome State Fault Refusal :=
  .next (s.setResultAndFlag x (s.reg x >>> 1) (lowBitFlag (s.reg x)))

/-- 8xy7 `SUBN Vx, Vy`: VF is NOT borrow of `Vy - Vx` (40_alu.md R110). -/
def execSubn (x y : Reg) (s : State) : Host.Outcome State Fault Refusal :=
  .next (s.setResultAndFlag x (s.reg y - s.reg x) (noBorrowFlag (s.reg y) (s.reg x)))

/-- 8xyE `SHL Vx`: VF is the bit shifted out; `y` is not read (40_alu.md R111). -/
def execShl (x : Reg) (s : State) : Host.Outcome State Fault Refusal :=
  .next (s.setResultAndFlag x (s.reg x <<< 1) (highBitFlag (s.reg x)))

/-- Cxkk with the draw given: uses up one draw (40_alu.md R112). -/
def drawRandom (rnd : Byte) (x : Reg) (kk : Byte) (s : State) : State :=
  { s.setReg x (rnd &&& kk) with draws := s.draws + 1 }

/-- Cxkk `RND Vx, kk`: the draw is a free value, fresh at each use (40_alu.md R112; log entry 1). -/
def execRnd (x : Reg) (kk : Byte) (s : State) : Host.Outcome State Fault Refusal :=
  .next (drawRandom (Config.rnd s.draws) x kk s)

end Sys2Proof.Machine
end

