-- ==== Sys2Proof/Machine/Control.lean ====
section
/-! DEFINITION. The control-flow instructions (42_control.md). On entry PC is the instruction's address
plus 2. Targets are written unmasked and unchecked (R150). -/

namespace Sys2Proof.Machine

/-- 0000 `NOP` (42_control.md R151). -/
def execNop (s : State) : Host.Outcome State Fault Refusal := .next s

/-- 00EE `RET` (42_control.md R152). -/
def execRet (s : State) : Host.Outcome State Fault Refusal :=
  if 0 < s.sp.val then .next (s.drop.setPc s.top)
  else raiseIn .stackUnderflow .ret s

/-- 1nnn `JP nnn` (42_control.md R153). -/
def execJp (nnn : Addr) (s : State) : Host.Outcome State Fault Refusal :=
  .next (s.setPc (zextAddr nnn))

/-- 2nnn `CALL nnn`: pushes PC, the address after the CALL (42_control.md R154). -/
def execCall (nnn : Addr) (s : State) : Host.Outcome State Fault Refusal :=
  if s.sp.val < 16 then .next ((s.push s.pc).setPc (zextAddr nnn))
  else raiseIn .stackOverflow (.call nnn) s

/-- 3xkk `SE Vx, kk` (42_control.md R155). -/
def execSeByte (x : Reg) (kk : Byte) (s : State) : Host.Outcome State Fault Refusal :=
  .next (s.skipIf (s.reg x = kk))

/-- 4xkk `SNE Vx, kk` (42_control.md R156). -/
def execSneByte (x : Reg) (kk : Byte) (s : State) : Host.Outcome State Fault Refusal :=
  .next (s.skipIf (s.reg x ≠ kk))

/-- 5xy0 `SE Vx, Vy` (42_control.md R157). -/
def execSeReg (x y : Reg) (s : State) : Host.Outcome State Fault Refusal :=
  .next (s.skipIf (s.reg x = s.reg y))

/-- 9xy0 `SNE Vx, Vy` (42_control.md R158). -/
def execSneReg (x y : Reg) (s : State) : Host.Outcome State Fault Refusal :=
  .next (s.skipIf (s.reg x ≠ s.reg y))

/-- Bnnn `JP V0, nnn`: no mask; the register is always V0 (42_control.md R159). -/
def execJpV0 (nnn : Addr) (s : State) : Host.Outcome State Fault Refusal :=
  .next (s.setPc (zextAddr nnn + zextByte (s.reg 0)))

end Sys2Proof.Machine
end

