-- ==== Sys2Proof/Machine/Draw.lean ====
section
/-! DEFINITION. The display instructions (43_draw.md). Both leave PC as fetch left it. -/

namespace Sys2Proof.Machine

/-- 00E0 `CLS`: VF is not written (43_draw.md R171). -/
def execCls (s : State) : Host.Outcome State Fault Refusal := .next (s.setFb Framebuffer.blank)

/-- The framebuffer after a Dxyn, and whether it collided (43_draw.md R172). -/
def State.drawn (s : State) (x y : Reg) (n : Nibble) : Framebuffer × Bool :=
  drawSprite s.mem s.indexAddr n.toNat (s.reg x).toNat (s.reg y).toNat s.fb

/-- Dxyn `DRW Vx, Vy, n`: VF is the collision (43_draw.md R172). -/
def execDrw (x y : Reg) (n : Nibble) (s : State) : Host.Outcome State Fault Refusal :=
  if addressesValid s.indexAddr n.toNat then
    .next ((s.setFb (s.drawn x y n).1).setReg vf (flagByte (s.drawn x y n).2))
  else raiseIn .memoryBounds (.drw x y n) s

end Sys2Proof.Machine
end

