-- ==== Sys2Proof/Machine/KeysTimers.lean ====
section
/-! DEFINITION. The keypad and timer instructions (44_keys_timers.md). None writes VF as a flag. -/

namespace Sys2Proof.Machine

/-- Ex9E `SKP Vx` (44_keys_timers.md R181). -/
def execSkp (x : Reg) (s : State) : Host.Outcome State Fault Refusal :=
  if (s.reg x).toNat < 16 then .next (s.skipIf (s.keyDown (s.reg x)))
  else raiseIn .keyIndex (.skp x) s

/-- ExA1 `SKNP Vx` (44_keys_timers.md R182). -/
def execSknp (x : Reg) (s : State) : Host.Outcome State Fault Refusal :=
  if (s.reg x).toNat < 16 then .next (s.skipIf (!s.keyDown (s.reg x)))
  else raiseIn .keyIndex (.sknp x) s

/-- Fx07 `LD Vx, DT` (44_keys_timers.md R183). -/
def execLdFromDt (x : Reg) (s : State) : Host.Outcome State Fault Refusal :=
  .next (s.setReg x s.dt)

/-- Fx0A `LD Vx, K`: back to the instruction itself while no key is pressed (44_keys_timers.md R184,
R187). -/
def execLdKey (x : Reg) (s : State) : Host.Outcome State Fault Refusal :=
  match Keys.lowest s.key with
  | none => .next (s.setPc (s.pc - 2))
  | some k => .next (s.setReg x (BitVec.ofNat 8 k))

/-- Fx15 `LD DT, Vx` (44_keys_timers.md R185). -/
def execLdToDt (x : Reg) (s : State) : Host.Outcome State Fault Refusal :=
  .next (s.setDt (s.reg x))

/-- Fx18 `LD ST, Vx`: never a tone by itself (44_keys_timers.md R186). -/
def execLdToSt (x : Reg) (s : State) : Host.Outcome State Fault Refusal :=
  .next (s.setSt (s.reg x))

end Sys2Proof.Machine
end

