-- ==== Sys2Proof/Machine/Transfer.lean ====
section
/-! DEFINITION. The index register and memory transfer instructions (41_transfer.md). Each leaves PC as
fetch left it; none writes VF as a flag. -/

namespace Sys2Proof.Machine

/-- Annn `LD I, nnn` (41_transfer.md R131). -/
def execLdI (nnn : Addr) (s : State) : Host.Outcome State Fault Refusal :=
  .next (s.setI (zextAddr nnn))

/-- Fx1E `ADD I, Vx`: wraps mod 65536, no flag (41_transfer.md R132). -/
def execAddI (x : Reg) (s : State) : Host.Outcome State Fault Refusal :=
  .next (s.setI (s.i + zextByte (s.reg x)))

/-- Fx29 `LD F, Vx`: 5 times the whole byte (41_transfer.md R133; 90_conflicts.md C2). -/
def execLdFont (x : Reg) (s : State) : Host.Outcome State Fault Refusal :=
  .next (s.setI (5 * zextByte (s.reg x)))

/-- The hundreds, tens and ones of a byte (41_transfer.md R134). -/
def bcdDigits (b : Byte) : List Byte :=
  [b / 100, (b / 10) % 10, b % 10]

/-- Fx33 `LD B, Vx` (41_transfer.md R134). -/
def execLdBcd (x : Reg) (s : State) : Host.Outcome State Fault Refusal :=
  if addressesValid s.indexAddr 3 then .next (s.store s.indexAddr (bcdDigits (s.reg x)))
  else raiseIn .memoryBounds (.ldBcd x) s

/-- Fx55 `LD [I], Vx`: stores V0 to Vx; I is unchanged (41_transfer.md R135). -/
def execStoreRegs (x : Reg) (s : State) : Host.Outcome State Fault Refusal :=
  if addressesValid s.indexAddr (x.toNat + 1) then .next (s.store s.indexAddr (s.regsThrough x))
  else raiseIn .memoryBounds (.storeRegs x) s

/-- Fx65 `LD Vx, [I]`: loads V0 to Vx; I is unchanged (41_transfer.md R136). -/
def execLoadRegs (x : Reg) (s : State) : Host.Outcome State Fault Refusal :=
  if addressesValid s.indexAddr (x.toNat + 1) then
    .next (s.setRegsThrough x (fun j => s.load (s.indexAddr + j)))
  else raiseIn .memoryBounds (.loadRegs x) s

end Sys2Proof.Machine
end

