-- ==== Sys2Proof/Machine/Step.lean ====
section
/-! DEFINITION. The step of the machine: one STEP command (60_exceptions.md R224), its random byte, if the
instruction uses one, a free value (log entry 1). -/

namespace Sys2Proof.Machine

/-- One STEP. -/
def step (s : State) : Host.Outcome State Fault Refusal := cycle exec s

/-- The state with an instruction placed where `step` fetches next (log entry 12). -/
def State.withFetchWord (s : State) (nbits w : Nat) : State := placeAtPc s nbits w

end Sys2Proof.Machine
end

