-- ==== Sys2Proof/Machine/Commands.lean ====
section
/-! DEFINITION. The host commands (60_exceptions.md R222 to R227; 70_reset_and_hazards.md R240 to R245).
`step` is the STEP command with a free random byte; here STEP carries the byte the host gives. -/

namespace Sys2Proof.Machine

/-- A command of the host (60_exceptions.md R222). Construction is no command on a state: it gives
`resetWith` (70_reset_and_hazards.md R240). -/
inductive Command where
  /-- STEP(RND) (60_exceptions.md R224). -/
  | step (rnd : Byte)
  /-- TICK_TIMERS (60_exceptions.md R225). -/
  | tickTimers
  /-- UPDATE_KEYS(K) (60_exceptions.md R226). -/
  | updateKeys (k : Keys)
  /-- GET_DISPLAY (60_exceptions.md R227). -/
  | getDisplay
  /-- LOAD(len, B) (70_reset_and_hazards.md R244); `len` is the list's length. -/
  | load (bytes : List Byte)
  /-- RESET (70_reset_and_hazards.md R241). -/
  | reset
  deriving DecidableEq, Repr

/-- What a command returns to the host (60_exceptions.md R222). -/
inductive Response where
  /-- The status OK of STEP and LOAD. -/
  | ok
  /-- The status FAULT(code) of STEP and TICK_TIMERS. -/
  | fault (code : Byte)
  /-- LOAD_ERROR (70_reset_and_hazards.md R244). -/
  | loadError
  /-- TICK_TIMERS done; whether it emitted the TONE event (60_exceptions.md R213). -/
  | ticked (tone : Bool)
  /-- GET_DISPLAY's copy of the framebuffer (60_exceptions.md R227). -/
  | display (pixels : List Bool)
  /-- UPDATE_KEYS and RESET return nothing. -/
  | done
  deriving DecidableEq, Repr

/-- The execute stage with STEP's random byte given, which only Cxkk uses (60_exceptions.md R220, R224). -/
def execWith (rnd : Byte) (i : Instr) (s : State) : Host.Outcome State Fault Refusal :=
  match i with
  | .rnd x kk => .next (drawRandom rnd x kk s)
  | other => exec other s

/-- STEP(RND) (60_exceptions.md R224). -/
def stepWith (rnd : Byte) (s : State) : Host.Outcome State Fault Refusal := cycle (execWith rnd) s

/-- The status a STEP that ends in this state returns: FAULT(FAULT_CAUSE) when the core is halted,
because it was or because this STEP faulted (60_exceptions.md R203, R207), else OK. -/
def State.status (s : State) : Response := if s.halted then .fault s.faultCause else .ok

/-- A timer's decrement, which stops at 0 (60_exceptions.md R212, R213). -/
def countDown (b : Byte) : Byte := if b = 0 then 0 else b - 1

/-- TICK_TIMERS on a running core: the timers after (60_exceptions.md R212, R213). -/
def State.ticked (s : State) : State := (s.setDt (countDown s.dt)).setSt (countDown s.st)

/-- Whether a tick emits the TONE event: ST goes from 1 to 0 (60_exceptions.md R213). -/
def State.toneOnTick (s : State) : Bool := s.st = 1

/-- The framebuffer in row-major order: element `y * 64 + x` is `FB[y][x]` (60_exceptions.md R227). -/
def Framebuffer.rowMajor (fb : Framebuffer) : List Bool := fb.toList.flatMap (fun row => row.toList)

/-- The state after construction or RESET under given parameters (70_reset_and_hazards.md R240, R241): zeroed
memory, then the font, and every register at its reset value. -/
def resetWith (c : Config) : State :=
  { State.reset with pc := c.resetPc, mem := Memory.writeBytes [] 0 c.font.toList }

/-- A command applied to a state (60_exceptions.md R222, R223): the state after and the response. The
parameters are those RESET uses. RESET keeps the model's own draw counter: no random byte is given twice. -/
def applyCommand (c : Config) : Command → State → Host.Outcome (State × Response) Fault Refusal
  | .step rnd, s =>
    match stepWith rnd s with
    | .next t => .next (t, t.status)
    | .fault f => .fault f
    | .refused r => .refused r
  | .tickTimers, s =>
    if s.halted then .next (s, .fault s.faultCause) else .next (s.ticked, .ticked s.toneOnTick)
  | .updateKeys k, s => .next (s.setKeys k, .done)
  | .getDisplay, s => .next (s, .display s.fb.rowMajor)
  | .load bytes, s =>
    if Config.maxProgram < bytes.length then .next (s, .loadError)
    else .next (s.store Config.programBase bytes, .ok)
  | .reset, s => .next ({ resetWith c with draws := s.draws }, .done)

/-- A sequence of commands applied in the order the host issues them (60_exceptions.md R223): the state
after and the responses in order. -/
def applyCommands (c : Config) : List Command → State → Host.Outcome (State × List Response) Fault Refusal
  | [], s => .next (s, [])
  | cmd :: rest, s =>
    match applyCommand c cmd s with
    | .fault f => .fault f
    | .refused r => .refused r
    | .next (t, response) =>
      match applyCommands c rest t with
      | .fault f => .fault f
      | .refused r => .refused r
      | .next (u, responses) => .next (u, response :: responses)

/-- CMD_ORDER, the order in which two requests that arrive together are applied: open, so a claim
quantifies over it (60_exceptions.md R223; log entry 9). -/
inductive CmdOrder where
  | firstThenSecond
  | secondThenFirst
  deriving DecidableEq, Repr

/-- Two commands that arrive together, applied in the order CMD_ORDER gives (60_exceptions.md R223). -/
def applyTogether (order : CmdOrder) (c : Config) (first second : Command) (s : State) :
    Host.Outcome (State × List Response) Fault Refusal :=
  match order with
  | .firstThenSecond => applyCommands c [first, second] s
  | .secondThenFirst => applyCommands c [second, first] s

end Sys2Proof.Machine
end

