-- ==== Sys2Proof/Safety.lean ====
section
/-! DEFINITION. The terms the statements use: which parts of the state an instruction may change, what a
taken fault leaves, the invariant of the machine, and the state after reset. Nothing here is used by the
machine itself. -/

namespace Sys2Proof.Machine

/-! ### Frames -/

/-- The parts of the state (10_state.md R20). -/
inductive Part where
  | regs
  | index
  | pc
  | memory
  | stack
  | timers
  | display
  | keys
  | faults
  | draws
  deriving DecidableEq, Repr

/-- A part of the state is the same in two states; memory byte by byte, at every address. -/
def SamePart (s t : State) : Part → Prop
  | .regs => ∀ r, t.reg r = s.reg r
  | .index => t.i = s.i
  | .pc => t.pc = s.pc
  | .memory => ∀ a, t.load a = s.load a
  | .stack => t.stack = s.stack ∧ t.sp = s.sp
  | .timers => t.dt = s.dt ∧ t.st = s.st
  | .display => t.fb = s.fb
  | .keys => t.key = s.key
  | .faults => t.halted = s.halted ∧ t.faultCause = s.faultCause ∧ t.faultPc = s.faultPc ∧
      t.faultOpcode = s.faultOpcode
  | .draws => t.draws = s.draws

/-- Every part of the state but the listed ones is the same in two states. -/
def OnlyChanges (parts : List Part) (s t : State) : Prop :=
  ∀ p, p ∉ parts → SamePart s t p

/-- `t` is `s` with register `x` holding `b` and nothing else changed. -/
def WritesReg (x : Reg) (b : Byte) (s t : State) : Prop :=
  t.reg x = b ∧ (∀ r, r ≠ x → t.reg r = s.reg r) ∧ OnlyChanges [.regs] s t

/-- `t` is `s` with `result` in register `x` and `flag` in VF, nothing else changed; where `x` is VF the
flag is what it holds (40_alu.md R100). -/
def WritesResultAndFlag (x : Reg) (result flag : Nat) (s t : State) : Prop :=
  (x ≠ vf → (t.reg x).toNat = result) ∧ (t.reg vf).toNat = flag ∧
    (∀ r, r ≠ x → r ≠ vf → t.reg r = s.reg r) ∧ OnlyChanges [.regs] s t

/-- `t` is `s` with a new PC and nothing else changed. -/
def WritesPc (pc : Nat) (s t : State) : Prop := t.pc.toNat = pc ∧ OnlyChanges [.pc] s t

/-- `t` is what fault entry in the execute stage of `i` leaves of `s`: the four fault registers written and nothing
else, PC among what stays (60_exceptions.md R203, R206). -/
def TakesFault (f : Fault) (i : Instr) (s t : State) : Prop :=
  t.halted = true ∧ t.faultCause = f.code ∧ t.faultPc = s.pc - 2 ∧ t.faultOpcode = encode i ∧
    OnlyChanges [.faults] s t

end Sys2Proof.Machine

namespace Sys2Proof

/-- The parts of the state an instruction may change in its execute stage, the fault registers among them where
it can fault (10_state.md R25, R27, R29 to R33; 20_memory.md R56; 60_exceptions.md R201). -/
def Instr.mayChange : Instr → List Machine.Part
  | .nop => []
  | .cls => [.display]
  | .ret | .call _ => [.stack, .pc, .faults]
  | .jp _ | .jpV0 _ | .seByte _ _ | .sneByte _ _ | .seReg _ _ | .sneReg _ _ => [.pc]
  | .ldByte _ _ | .addByte _ _ | .ldReg _ _ | .or _ _ | .and _ _ | .xor _ _ | .addReg _ _ | .sub _ _
  | .shr _ | .subn _ _ | .shl _ | .ldFromDt _ => [.regs]
  | .rnd _ _ => [.regs, .draws]
  | .ldI _ | .addI _ | .ldFont _ => [.index]
  | .drw _ _ _ => [.display, .regs, .faults]
  | .skp _ | .sknp _ => [.pc, .faults]
  | .ldKey _ => [.regs, .pc]
  | .ldToDt _ | .ldToSt _ => [.timers]
  | .ldBcd _ | .storeRegs _ => [.memory, .faults]
  | .loadRegs _ => [.regs, .faults]

/-- The general registers an instruction may write: its destination, or V0 to Vx for LD Vx, [I], and VF where the
instruction writes it as a flag (10_state.md R22, R23). -/
def Instr.mayWrite : Instr → Reg → Bool
  | .ldByte x _, r | .addByte x _, r | .rnd x _, r | .ldFromDt x, r | .ldKey x, r => r = x
  | .ldReg x _, r | .or x _, r | .and x _, r | .xor x _, r => r = x
  | .addReg x _, r | .sub x _, r | .subn x _, r | .shr x, r | .shl x, r => r = x || r = Machine.vf
  | .drw _ _ _, r => r = Machine.vf
  | .loadRegs x, r => r.toNat ≤ x.toNat
  | .nop, _ | .cls, _ | .ret, _ | .jp _, _ | .call _, _ | .jpV0 _, _ => false
  | .seByte _ _, _ | .sneByte _ _, _ | .seReg _ _, _ | .sneReg _ _, _ | .skp _, _ | .sknp _, _ => false
  | .ldI _, _ | .addI _, _ | .ldFont _, _ | .ldToDt _, _ | .ldToSt _, _ | .ldBcd _, _ | .storeRegs _, _ => false

/-- Whether an address is one an instruction stores to, from the state it executes in: the three digits of
LD B, Vx and the block of LD [I], Vx (20_memory.md R56). -/
def Instr.storesTo : Instr → Machine.State → Nat → Prop
  | .ldBcd _, s, a => s.indexAddr ≤ a ∧ a < s.indexAddr + 3
  | .storeRegs x, s, a => s.indexAddr ≤ a ∧ a ≤ s.indexAddr + x.toNat
  | _, _, _ => False

end Sys2Proof

namespace Sys2Proof.Machine

/-! ### The program counter (10_state.md R27) -/

/-- PC after a STEP that completes `i`, fetched from address `a`, in terms of the state before it
(10_state.md R27). -/
def pcAfter (s : State) (a : Nat) : Instr → Nat
  | .seByte x kk => if s.reg x = kk then a + 4 else a + 2
  | .sneByte x kk => if s.reg x = kk then a + 2 else a + 4
  | .seReg x y => if s.reg x = s.reg y then a + 4 else a + 2
  | .sneReg x y => if s.reg x = s.reg y then a + 2 else a + 4
  | .skp x => if s.keyDown (s.reg x) then a + 4 else a + 2
  | .sknp x => if s.keyDown (s.reg x) then a + 2 else a + 4
  | .jp nnn | .call nnn => nnn.toNat
  | .ret => (s.stack.toList.getD (s.sp.val - 1) 0).toNat
  | .jpV0 nnn => nnn.toNat + (s.reg 0).toNat
  | .ldKey _ => if ∃ k ∈ s.key.toList, k = true then a + 2 else a
  | _ => a + 2

/-! ### Faults of a STEP (60_exceptions.md R201) -/

/-- `t` is halted with a cause, recorded against the instruction at the PC of `s` and a word. -/
def FaultedWith (code : Byte) (op : Word) (s t : State) : Prop :=
  t.halted = true ∧ t.faultCause = code ∧ t.faultPc = s.pc ∧ t.faultOpcode = op

/-- The next STEP of `s` fetches and decodes `i` (20_memory.md R53; 30_encoding.md R83). -/
def NextIs (s : State) (i : Instr) : Prop :=
  s.pc.toNat ≤ 0xFFE ∧ decode (s.wordAt s.pc.toNat) = some i

/-- The condition under which Dxyn, Fx33, Fx55 or Fx65 addresses above 0xFFF (60_exceptions.md R201). -/
def AddressesAboveMemory (s : State) : Instr → Prop
  | .drw _ _ n => 0 < n.toNat ∧ 0xFFF < s.indexAddr + n.toNat - 1
  | .ldBcd _ => 0xFFF < s.indexAddr + 2
  | .storeRegs x | .loadRegs x => 0xFFF < s.indexAddr + x.toNat
  | _ => False

/-! ### Illegal words (30_encoding.md R87) -/

/-- The illegal words, by the table of 30_encoding.md R87. -/
def IllegalWord (op : Word) : Prop :=
  (op.toNat / 0x1000 = 0x0 ∧ op.toNat ≠ 0x0000 ∧ op.toNat ≠ 0x00E0 ∧ op.toNat ≠ 0x00EE) ∨
  (op.toNat / 0x1000 = 0x5 ∧ op.toNat % 0x10 ≠ 0) ∨
  (op.toNat / 0x1000 = 0x8 ∧ op.toNat % 0x10 ∈ [0x8, 0x9, 0xA, 0xB, 0xC, 0xD, 0xF]) ∨
  (op.toNat / 0x1000 = 0x9 ∧ op.toNat % 0x10 ≠ 0) ∨
  (op.toNat / 0x1000 = 0xE ∧ op.toNat % 0x100 ∉ [0x9E, 0xA1]) ∨
  (op.toNat / 0x1000 = 0xF ∧
    op.toNat % 0x100 ∉ [0x07, 0x0A, 0x15, 0x18, 0x1E, 0x29, 0x33, 0x55, 0x65])

/-! ### Display (43_draw.md R173) -/

/-- The wrapped sprite mask `S` of 43_draw.md R173: whether the sprite of `n` rows at I, drawn at
`(Vx, Vy)`, covers the pixel at column `px`, row `py`. -/
def SpriteCovers (s : State) (x y : Reg) (n : Nibble) (px py : Nat) : Prop :=
  ∃ r < n.toNat, ∃ c < 8, (s.load (s.indexAddr + r)).getLsbD (7 - c) = true ∧
    ((s.reg x).toNat + c) % 64 = px ∧ ((s.reg y).toNat + r) % 32 = py

/-! ### The invariant -/

/-- The fault registers say the same: running with all of them 0, or halted with a cause of
60_exceptions.md R201 (10_state.md R33; 60_exceptions.md R203). -/
def State.faultsConsistent (s : State) : Prop :=
  (s.halted = false ∧ s.faultCause = 0 ∧ s.faultPc = 0 ∧ s.faultOpcode = 0) ∨
  (s.halted = true ∧ 1 ≤ s.faultCause.toNat ∧ s.faultCause.toNat ≤ 6)

/-- The invariant of the machine: memory in canonical form inside the 4096 bytes (20_memory.md R50), PC at most
0x10FE (10_state.md R28), every stack slot a return address at most 0x1000 (42_control.md R154), and consistent
fault registers. -/
structure State.Inv (s : State) : Prop where
  memory : s.mem.wf
  pc : s.pc.toNat ≤ 0x10FE
  stack : ∀ k, (h : k < 16) → (s.stack[k]).toNat ≤ 0x1000
  faults : s.faultsConsistent

/-! ### Reset (10_state.md R42) -/

/-- The state after construction and RESET under given parameters, part by part (10_state.md R35 to R41; 20_memory.md
R61); the model's own draw counter is left open. -/
structure IsResetState (c : Config) (t : State) : Prop where
  font : ∀ a, (h : a < 80) → t.load a = c.font[a]
  zero : ∀ a, 80 ≤ a → a ≤ 0xFFF → t.load a = 0
  regs : ∀ r, t.reg r = 0
  index : t.i = 0
  pc : t.pc = c.resetPc
  sp : t.sp = 0
  stack : ∀ k, (h : k < 16) → t.stack[k] = 0
  timers : t.dt = 0 ∧ t.st = 0
  display : ∀ x y, t.fb.pixel x y = false
  keys : ∀ k, (h : k < 16) → t.key[k] = false
  faults : t.halted = false ∧ t.faultCause = 0 ∧ t.faultPc = 0 ∧ t.faultOpcode = 0

end Sys2Proof.Machine
end

