-- ==== Sys2Proof/Certificates/Slice0/Obligations.lean ====
section
/-! DEFINITION. The statements for the provers, from the numbered rules of spec/. Each docstring names the rules or
sections it formalises, and the decisions D<n> of 92_eei_decisions.md it rests on: those are the spec's own choices and
not the source's words, and the model follows them (log entry 14). Nothing is proved here. -/

open Sys2Proof Sys2Proof.Machine

/-! ### Fetch, decode and the STEP -/

/-- 60_exceptions.md R224, 10_state.md R26: the execute stage of a STEP is `exec` of the decoded instruction on the
state with PC advanced by 2, with nothing around it. -/
def Obligations.StepRunsDecodedInstruction : Prop :=
  ∀ (s : State) (i : Instr), s.halted = false → NextIs s i → step s = exec i (s.setPc (s.pc + 2))

/-- 60_exceptions.md R224: the STEP command, case by case, with its status and the address and word every raise
records. The fault registers and codes are the spec's own D5, the ignored STEP of a halted core its D7. -/
def Obligations.StepCommandFollowsTheCycle : Prop :=
  ∀ (c : Config) (rnd : Byte) (s : State),
    (s.halted = true → applyCommand c (.step rnd) s = .next (s, .fault s.faultCause)) ∧
    (s.halted = false → 0xFFE < s.pc.toNat →
      applyCommand c (.step rnd) s = .next (s.raise .fetchError s.pc 0, .fault 1)) ∧
    (s.halted = false → s.pc.toNat ≤ 0xFFE → decode (s.wordAt s.pc.toNat) = none →
      applyCommand c (.step rnd) s =
        .next ((s.setPc (s.pc + 2)).raise .unimplementedOpcode s.pc (s.wordAt s.pc.toNat), .fault 2)) ∧
    (∀ i, s.halted = false → NextIs s i →
      ∃ t, execWith rnd i (s.setPc (s.pc + 2)) = .next t ∧
        ((t.halted = false ∧ applyCommand c (.step rnd) s = .next (t, .ok)) ∨
         (FaultedWith t.faultCause (s.wordAt s.pc.toNat) s t ∧
            applyCommand c (.step rnd) s = .next (t, .fault t.faultCause))))

/-- 60_exceptions.md R220, R224: the machine's `step` is the STEP command with one free byte for RND, and the byte is
used only if the instruction is Cxkk. RND as a free input is the spec's own D8; the model's counter of free bytes is
log entry 1. -/
def Obligations.StepIsTheStepCommandWithAFreeByte : Prop :=
  (∀ s : State, step s = stepWith (Config.rnd s.draws) s) ∧
  (∀ (s : State) (i : Instr) (a b : Byte), NextIs s i → (∀ x kk, i ≠ .rnd x kk) →
    stepWith a s = stepWith b s)

/-- 20_memory.md R53: the fetched word is big-endian, PC advances by 2 without wrap, and a PC above 0xFFE raises
FETCH_ERROR with PC unchanged. What the fault leaves in the fault registers is the spec's own D5. -/
def Obligations.FetchReadsTheBigEndianWord : Prop :=
  ∀ s : State,
    (s.pc.toNat ≤ 0xFFE → ∃ op, s.fetch = some op ∧
      op.toNat = 256 * (s.load s.pc.toNat).toNat + (s.load (s.pc.toNat + 1)).toNat ∧
      WritesPc (s.pc.toNat + 2) s s.fetched) ∧
    (0xFFE < s.pc.toNat → s.fetch = none ∧ (s.halted = false →
      ∃ t, step s = .next t ∧ FaultedWith 1 0 s t ∧ OnlyChanges [.faults] s t))

/-- 30_encoding.md R87: the illegal words are exactly the table's, 21581 of them, and executing one raises
UNIMPLEMENTED_OPCODE. The table and its count are derived by the spec; the code is its own D5, the advanced PC its
D6. -/
def Obligations.IllegalWordsAreExactlyTheTable : Prop :=
  (∀ op : Word, decode op = none ↔ IllegalWord op) ∧
  ((List.range 65536).filter (fun w => (decode (BitVec.ofNat 16 w)).isNone)).length = 21581 ∧
  (∀ s : State, s.halted = false → s.pc.toNat ≤ 0xFFE → IllegalWord (s.wordAt s.pc.toNat) →
    ∃ t, step s = .next t ∧ FaultedWith 2 (s.wordAt s.pc.toNat) s t ∧ t.pc = s.pc + 2 ∧
      OnlyChanges [.faults, .pc] s t)

/-- 30_encoding.md R84, derived by the spec: the 35 patterns are pairwise disjoint. -/
def Obligations.AtMostOnePatternCovers : Prop :=
  opcodePatterns.length = 35 ∧ opcodePatterns.Nodup ∧
  ∀ (op : Word) (p q : Pattern), p ∈ opcodePatterns → q ∈ opcodePatterns →
    p.covers op = true → q.covers op = true → p = q

/-- 30_encoding.md R83: of the 35 patterns decode selects one that covers the word, and fails exactly when none does. -/
def Obligations.DecodeSelectsTheCoveringPattern : Prop :=
  opcodePatterns.length = 35 ∧
  ∀ op : Word,
    (∀ i, decode op = some i → i.pattern ∈ opcodePatterns ∧ op &&& i.pattern.mask = i.pattern.value) ∧
    (decode op = none ↔ ∀ p ∈ opcodePatterns, op &&& p.mask ≠ p.value)

/-- 30_encoding.md R81, R82, R86: decoding the encoded word, or its two bytes in memory order before any others,
gives every instruction back, every operand at every value. -/
def Obligations.DecodeOfEncode : Prop :=
  ∀ i : Instr, decode (encode i) = some i ∧
    ∀ rest : List Byte, decodeBytes (bytesOfWord (encode i) ++ rest) = .ok (i, rest)

/-- 30_encoding.md R85: every value of `y` decodes to the same SHR or SHL, and no other field is decoded but ignored:
encoding what was decoded gives the word back but for that field. That SHR and SHL ignore `y` is the spec's own D17. -/
def Obligations.OnlyShiftsIgnoreAField : Prop :=
  (∀ x y : Reg, decode (packXYN 0x8 x y 0x6) = some (.shr x) ∧ decode (packXYN 0x8 x y 0xE) = some (.shl x)) ∧
  (∀ (op : Word) (i : Instr), decode op = some i →
    (((∃ x, i = .shr x) ∨ (∃ x, i = .shl x)) ∧ encode i = op &&& 0xFF0F) ∨
    ((∀ x, i ≠ .shr x ∧ i ≠ .shl x) ∧ encode i = op))

/-- 30_encoding.md R86: words written out from the encoding, one or two of each family. -/
def Obligations.SampleWordsDecode : Prop :=
  decode 0b0000000011101110 = some .ret ∧ decode 0b0001001000110100 = some (.jp 0x234) ∧
  decode 0b0011000011111110 = some (.seByte 0 0xFE) ∧ decode 0b1000010100110111 = some (.subn 5 3) ∧
  decode 0b1010001011110000 = some (.ldI 0x2F0) ∧ decode 0b1101000110100101 = some (.drw 1 0xA 5) ∧
  decode 0b1110001110100001 = some (.sknp 3) ∧ decode 0b1111110001010101 = some (.storeRegs 0xC) ∧
  decode 0b0101000100100001 = none

/-! ### Invariants and whole-machine rules -/

/-- 20_memory.md R50, 10_state.md R28, R29, R33: every STEP keeps the invariant. It rests on the spec's own D3 (no store
above 0xFFF), D5 (the fault registers) and D25 (PC is never masked). -/
def Obligations.StepKeepsInvariant : Prop :=
  ∀ s t : State, s.Inv → step s = .next t → t.Inv

/-- The invariant holds after reset. It rests on the spec's RESET_PC (10_state.md R36, log entry 6). -/
def Obligations.ResetMeetsInvariant : Prop := State.reset.Inv

/-- Every host command keeps the invariant, under any font and any RESET_PC a program counter may hold
(60_exceptions.md R222 to R227; 70_reset_and_hazards.md R241, R244). It rests on the spec's own D3, D5, D7, D13
and D25. -/
def Obligations.CommandsKeepInvariant : Prop :=
  ∀ (c : Config) (cmd : Command) (s t : State) (r : Response), c.resetPc.toNat ≤ 0x10FE → s.Inv →
    applyCommand c cmd s = .next (t, r) → t.Inv

/-- No command is ever refused and none ends in a fault outcome: a STEP executes exactly one instruction or faults
(60_exceptions.md R222 to R224), and every command of a sequence gets one response. That a fault is a next state is the
model's reading of the spec's own D5 (log entry 2). -/
def Obligations.EveryCommandAnswers : Prop :=
  (∀ s : State, ∃ t, step s = .next t) ∧
  (∀ (i : Instr) (s : State), ∃ t, exec i s = .next t) ∧
  (∀ (c : Config) (cmds : List Command) (s : State), ∃ t rs,
    applyCommands c cmds s = .next (t, rs) ∧ rs.length = cmds.length)

/-- 60_exceptions.md R223: the behaviour is a function of the sequence of commands; a sequence runs as its first part
and then the rest, and two requests that arrive together run as one of the two sequences (the spec's own D13; log
entry 9). -/
def Obligations.CommandSequencesCompose : Prop :=
  (∀ (c : Config) (xs ys : List Command) (s t u : State) (rs us : List Response),
    applyCommands c xs s = .next (t, rs) → applyCommands c ys t = .next (u, us) →
    applyCommands c (xs ++ ys) s = .next (u, rs ++ us)) ∧
  (∀ (order : CmdOrder) (c : Config) (a b : Command) (s : State),
    applyTogether order c a b s = applyCommands c [a, b] s ∨
    applyTogether order c a b s = applyCommands c [b, a] s)

/-- The frame of every instruction (10_state.md R23 to R33; 20_memory.md R56): only the parts of the state the spec names
for it change, only its destination registers, and only the bytes it stores to. It rests on the spec's own D3 to D6 (a
faulting instruction writes only the fault registers) and D18 (I and VF stay); the draw counter is the model's own (log
entry 1). -/
def Obligations.FrameOfEveryInstruction : Prop :=
  ∀ (i : Instr) (s t : State), exec i s = .next t →
    OnlyChanges i.mayChange s t ∧
    (∀ r, i.mayWrite r = false → t.reg r = s.reg r) ∧
    (∀ a, ¬ i.storesTo s a → t.load a = s.load a)

/-- 10_state.md R23: VF changes only as the flag of the six instructions that write it, or where it is named as
destination. It rests on the spec's own D18 (OR, AND and XOR do not reset VF). -/
def Obligations.VfChangesOnlyAsFlagOrDestination : Prop :=
  ∀ (i : Instr) (s t : State), exec i s = .next t → t.reg vf ≠ s.reg vf →
    (∃ x y, i = .addReg x y ∨ i = .sub x y ∨ i = .subn x y) ∨ (∃ x, i = .shr x ∨ i = .shl x) ∨
    (∃ x y n, i = .drw x y n) ∨
    (∃ kk, i = .ldByte vf kk ∨ i = .addByte vf kk ∨ i = .rnd vf kk) ∨
    (∃ y, i = .ldReg vf y ∨ i = .or vf y ∨ i = .and vf y ∨ i = .xor vf y) ∨
    i = .ldFromDt vf ∨ i = .ldKey vf ∨ i = .loadRegs vf

/-- 10_state.md R27, derived by the spec: PC after every STEP that completes, and the address CALL pushes. -/
def Obligations.PcAfterEveryInstruction : Prop :=
  ∀ (s t : State) (i : Instr), s.halted = false → NextIs s i → step s = .next t → t.halted = false →
    t.pc.toNat = pcAfter s s.pc.toNat i ∧
    (∀ nnn, i = .call nnn → t.stack.toList[s.sp.val]? = some (s.pc + 2))

/-- 10_state.md R30, 60_exceptions.md R209: no instruction reads ST, so a program never learns the sound timer. -/
def Obligations.SoundTimerIsNeverRead : Prop :=
  ∀ (i : Instr) (s t : State) (b : Byte), exec i s = .next t →
    ((∀ x, i ≠ .ldToSt x) → exec i (s.setSt b) = .next (t.setSt b)) ∧
    (∀ x, i = .ldToSt x → exec i (s.setSt b) = .next t)

/-- 20_memory.md R65, derived by the spec: the bytes LD [I], Vx stores are the word the next STEP fetches there. -/
def Obligations.StoreIsSeenByTheNextFetch : Prop :=
  ∀ (s : State) (x r r' : Reg) (i : Instr), s.indexAddr + x.toNat ≤ 0xFFF → s.halted = false →
    r'.toNat = r.toNat + 1 → r'.toNat ≤ x.toNat → s.pc.toNat = s.indexAddr + r.toNat →
    decode (wordOfBytes (s.reg r) (s.reg r')) = some i →
    ∃ t, exec (.storeRegs x) s = .next t ∧ step t = exec i (t.setPc (t.pc + 2))

/-! ### Faults -/

/-- 60_exceptions.md R201: the causes and codes of a STEP's faults, who raises each and what is recorded; no other
instruction faults. The codes and registers are the spec's own D5, MEMORY_BOUNDS its D3 and KEY_INDEX its D4. -/
def Obligations.FaultCausesAreExactlyTheListed : Prop :=
  ∀ s t : State, s.halted = false → step s = .next t →
    (FaultedWith 1 0 s t ↔ 0xFFE < s.pc.toNat) ∧
    (FaultedWith 2 (s.wordAt s.pc.toNat) s t ↔
      s.pc.toNat ≤ 0xFFE ∧ decode (s.wordAt s.pc.toNat) = none) ∧
    (FaultedWith 3 (s.wordAt s.pc.toNat) s t ↔ (∃ nnn, NextIs s (.call nnn)) ∧ s.sp.val = 16) ∧
    (FaultedWith 4 (s.wordAt s.pc.toNat) s t ↔ NextIs s .ret ∧ s.sp.val = 0) ∧
    (FaultedWith 5 (s.wordAt s.pc.toNat) s t ↔ ∃ i, NextIs s i ∧ AddressesAboveMemory s i) ∧
    (FaultedWith 6 (s.wordAt s.pc.toNat) s t ↔
      ∃ x, (NextIs s (.skp x) ∨ NextIs s (.sknp x)) ∧ 15 < (s.reg x).toNat) ∧
    (t.halted = true → 1 ≤ t.faultCause.toNat ∧ t.faultCause.toNat ≤ 6 ∧
      FaultedWith t.faultCause (if t.faultCause = 1 then 0 else s.wordAt s.pc.toNat) s t)

/-- 60_exceptions.md R206: faults are precise, the spec's own D6 on the fault registers of its D5. -/
def Obligations.FaultsArePrecise : Prop :=
  ∀ s t : State, s.halted = false → step s = .next t → t.halted = true →
    OnlyChanges [.faults, .pc] s t ∧ t.faultPc = s.pc ∧
    (t.faultCause = 1 → t.pc = s.pc) ∧ (t.faultCause ≠ 1 → t.pc = s.pc + 2)

/-- 60_exceptions.md R207: what a halted core does with each command, the spec's own D7. -/
def Obligations.HaltedCoreIgnoresStepAndTick : Prop :=
  ∀ (c : Config) (s : State), s.halted = true →
    step s = .next s ∧
    (∀ rnd, applyCommand c (.step rnd) s = .next (s, .fault s.faultCause)) ∧
    applyCommand c .tickTimers s = .next (s, .fault s.faultCause) ∧
    (∀ k, ∃ t, applyCommand c (.updateKeys k) s = .next (t, .done) ∧ t.key = k ∧ OnlyChanges [.keys] s t) ∧
    applyCommand c .getDisplay s = .next (s, .display s.fb.rowMajor) ∧
    (∀ bytes, bytes.length ≤ 0xE00 → ∃ t, applyCommand c (.load bytes) s = .next (t, .ok) ∧
      (∀ j b, bytes[j]? = some b → t.load (0x200 + j) = b) ∧ OnlyChanges [.memory] s t) ∧
    (∀ bytes, 0xE00 < bytes.length → applyCommand c (.load bytes) s = .next (s, .loadError)) ∧
    (∃ t, applyCommand c .reset s = .next (t, .done) ∧ t.halted = false)

/-- 70_reset_and_hazards.md R242: RESET alone clears HALTED and the fault registers, in every state, the spec's
own D7. -/
def Obligations.OnlyResetClearsTheHalt : Prop :=
  (∀ (c : Config) (s : State), ∃ t, applyCommand c .reset s = .next (t, .done) ∧ t.halted = false ∧
    t.faultCause = 0 ∧ t.faultPc = 0 ∧ t.faultOpcode = 0) ∧
  (∀ (c : Config) (cmd : Command) (s t : State) (r : Response), s.halted = true → cmd ≠ .reset →
    applyCommand c cmd s = .next (t, r) → SamePart s t .faults)

/-! ### Reset, load and the host's other commands -/

/-- 10_state.md R35 to R42, 20_memory.md R61, 70_reset_and_hazards.md R240, R241: construction and RESET give the reset
state, for every RESET_PC and FONT, and the machine's reset state is that of the spec's RESET_PC 0x200. It rests on the spec's own D1
(RESET_PC; log entry 6), D5, D10 (the font; log entry 5), D11, D12, D19 and D22 (log entry 14). -/
def Obligations.ConstructionAndResetGiveTheResetState : Prop :=
  (∀ c : Config, IsResetState c (resetWith c)) ∧
  (∀ (c : Config) (s : State), ∃ t, applyCommand c .reset s = .next (t, .done) ∧ IsResetState c t) ∧
  State.reset = resetWith Config.spec ∧ State.reset.pc = 0x200

/-- 70_reset_and_hazards.md R244: LOAD copies a program of at most 3584 bytes to 0x200 onward; a longer one changes
nothing. -/
def Obligations.LoadCopiesTheProgram : Prop :=
  ∀ (c : Config) (s : State) (bytes : List Byte),
    (0xE00 < bytes.length → applyCommand c (.load bytes) s = .next (s, .loadError)) ∧
    (bytes.length ≤ 0xE00 → ∃ t, applyCommand c (.load bytes) s = .next (t, .ok) ∧
      ∀ j b, bytes[j]? = some b → t.load (0x200 + j) = b)

/-- 70_reset_and_hazards.md R245: LOAD writes the program's bytes and nothing else, the spec's own D26. -/
def Obligations.LoadWritesNothingElse : Prop :=
  ∀ (c : Config) (s t : State) (bytes : List Byte) (r : Response), applyCommand c (.load bytes) s = .next (t, r) →
    (∀ a, a < 0x200 ∨ 0x200 + bytes.length ≤ a → t.load a = s.load a) ∧ OnlyChanges [.memory] s t

/-- 70_reset_and_hazards.md R243: from the one reset state, whose memory is empty, 1792 NOPs run and then FETCH_ERROR. It rests on the spec's
RESET_PC 0x200 (10_state.md R36, log entry 6). -/
def Obligations.EmptyMemoryRunsToFetchError : Prop :=
  (∀ k ≤ 1792, Sys2Proof.core.run k State.reset = .next (State.reset.setPc (BitVec.ofNat 16 (0x200 + 2 * k)))) ∧
  (∃ t, Sys2Proof.core.run 1793 State.reset = .next t ∧ FaultedWith 1 0 (State.reset.setPc 0x1000) t)

/-- 60_exceptions.md R212, R213, R225: TICK_TIMERS. A halted core ignoring it is the spec's own D7, and when the TONE is
emitted rests on its D15. -/
def Obligations.TickCountsDownAndSounds : Prop :=
  ∀ (c : Config) (s : State),
    (s.halted = true → applyCommand c .tickTimers s = .next (s, .fault s.faultCause)) ∧
    (s.halted = false → ∃ t tone, applyCommand c .tickTimers s = .next (t, .ticked tone) ∧
      t.dt.toNat = s.dt.toNat - 1 ∧ t.st.toNat = s.st.toNat - 1 ∧ (tone = true ↔ s.st = 1) ∧
      OnlyChanges [.timers] s t)

/-- 60_exceptions.md R213, R214: over any number of ticks both timers stop at 0 and the TONE is emitted exactly once
if ST was not 0 and has run out, else never (the spec's own D15). -/
def Obligations.TicksSoundExactlyOnce : Prop :=
  ∀ (n : Nat) (c : Config) (s : State), s.halted = false →
    ∃ t rs, applyCommands c (List.replicate n .tickTimers) s = .next (t, rs) ∧
      t.dt.toNat = s.dt.toNat - n ∧ t.st.toNat = s.st.toNat - n ∧
      rs.count (.ticked true) = (if 1 ≤ s.st.toNat ∧ s.st.toNat ≤ n then 1 else 0) ∧
      OnlyChanges [.timers] s t

/-- 60_exceptions.md R226: UPDATE_KEYS replaces the whole key state and nothing else, halted or not. -/
def Obligations.UpdateKeysReplacesEveryKey : Prop :=
  ∀ (c : Config) (s : State) (keys : Keys), ∃ t, applyCommand c (.updateKeys keys) s = .next (t, .done) ∧
    (∀ k, (h : k < 16) → t.key[k] = keys[k]) ∧ OnlyChanges [.keys] s t

/-- 60_exceptions.md R227: GET_DISPLAY returns the framebuffer as 2048 booleans in row-major order and changes nothing,
the spec's own D21. -/
def Obligations.GetDisplayIsRowMajor : Prop :=
  ∀ (c : Config) (s : State), ∃ pixels, applyCommand c .getDisplay s = .next (s, .display pixels) ∧
    pixels.length = 2048 ∧ ∀ x y, x < 64 → y < 32 → pixels[y * 64 + x]? = some (s.fb.pixel x y)

/-- 60_exceptions.md R230, 42_control.md R153: after a jump to itself every STEP leaves all state unchanged, the spec's
own D28. -/
def Obligations.SelfJumpIsAFixedPoint : Prop :=
  ∀ (s : State) (nnn : Addr), s.halted = false → NextIs s (.jp nnn) → nnn.toNat = s.pc.toNat →
    ∀ n, Sys2Proof.core.run n s = .next s

/-! ### Arithmetic and logic (40_alu.md) -/

/-- 40_alu.md R101, R103: the register takes the byte, and nothing else changes. -/
def Obligations.LoadWritesTheRegister : Prop :=
  ∀ (x y : Reg) (kk : Byte) (s : State),
    (∃ t, exec (.ldByte x kk) s = .next t ∧ WritesReg x kk s t) ∧
    (∃ t, exec (.ldReg x y) s = .next t ∧ WritesReg x (s.reg y) s t)

/-- 40_alu.md R102: the sum wraps and no flag is written. -/
def Obligations.AddImmediateWrapsWithoutFlag : Prop :=
  ∀ (x : Reg) (kk : Byte) (s : State), ∃ t, exec (.addByte x kk) s = .next t ∧
    WritesReg x (BitVec.ofNat 8 (((s.reg x).toNat + kk.toNat) % 256)) s t

/-- 40_alu.md R104, R105, R106, bit by bit; that VF is not reset is the spec's own D18. -/
def Obligations.LogicOperationsBitByBit : Prop :=
  ∀ (x y : Reg) (s : State),
    (∃ t, exec (.or x y) s = .next t ∧ WritesReg x (t.reg x) s t ∧
      ∀ b, (t.reg x).getLsbD b = ((s.reg x).getLsbD b || (s.reg y).getLsbD b)) ∧
    (∃ t, exec (.and x y) s = .next t ∧ WritesReg x (t.reg x) s t ∧
      ∀ b, (t.reg x).getLsbD b = ((s.reg x).getLsbD b && (s.reg y).getLsbD b)) ∧
    (∃ t, exec (.xor x y) s = .next t ∧ WritesReg x (t.reg x) s t ∧
      ∀ b, (t.reg x).getLsbD b = ((s.reg x).getLsbD b != (s.reg y).getLsbD b))

/-- 40_alu.md R107: the sum and its carry. With `x = F` VF is the flag, the spec's own D2. -/
def Obligations.AddSetsCarry : Prop :=
  ∀ (x y : Reg) (s : State), ∃ t, exec (.addReg x y) s = .next t ∧
    WritesResultAndFlag x (((s.reg x).toNat + (s.reg y).toNat) % 256)
      (if 256 ≤ (s.reg x).toNat + (s.reg y).toNat then 1 else 0) s t

/-- 40_alu.md R108, R110: the difference and NOT borrow. With `x = F` VF is the flag, the spec's own D2. -/
def Obligations.SubtractSetsNotBorrow : Prop :=
  ∀ (x y : Reg) (s : State),
    (∃ t, exec (.sub x y) s = .next t ∧
      WritesResultAndFlag x (((s.reg x).toNat + 256 - (s.reg y).toNat) % 256)
        (if (s.reg y).toNat ≤ (s.reg x).toNat then 1 else 0) s t) ∧
    (∃ t, exec (.subn x y) s = .next t ∧
      WritesResultAndFlag x (((s.reg y).toNat + 256 - (s.reg x).toNat) % 256)
        (if (s.reg x).toNat ≤ (s.reg y).toNat then 1 else 0) s t)

/-- 40_alu.md R109, R111: one place, and the bit shifted out. That `y` is not read is the spec's own D17, and that with
`x = F` VF is the flag its D2. -/
def Obligations.ShiftSetsTheBitShiftedOut : Prop :=
  ∀ (x : Reg) (s : State),
    (∃ t, exec (.shr x) s = .next t ∧
      WritesResultAndFlag x ((s.reg x).toNat / 2) ((s.reg x).toNat % 2) s t) ∧
    (∃ t, exec (.shl x) s = .next t ∧
      WritesResultAndFlag x ((s.reg x).toNat * 2 % 256) ((s.reg x).toNat / 128) s t)

/-- 40_alu.md R112, 60_exceptions.md R220: the draw ANDed with `kk`, for every draw the STEP command may bring, and for
the free byte of `exec`; each use takes the next free byte. RND as a free input is the spec's own D8; the counter is the
model's choice (log entry 1). -/
def Obligations.RandomIsAnyDrawUnderTheMask : Prop :=
  ∀ (x : Reg) (kk : Byte) (s : State),
    (∀ rnd : Byte, ∃ t, execWith rnd (.rnd x kk) s = .next t ∧ t.reg x = rnd &&& kk ∧
      (∀ r, r ≠ x → t.reg r = s.reg r) ∧ OnlyChanges [.regs, .draws] s t) ∧
    (∃ t, exec (.rnd x kk) s = .next t ∧ t.reg x = Config.rnd s.draws &&& kk ∧ t.draws = s.draws + 1 ∧
      (∀ r, r ≠ x → t.reg r = s.reg r) ∧ OnlyChanges [.regs, .draws] s t)

/-! ### Index register and transfer (41_transfer.md) -/

/-- 41_transfer.md R131, R132, R133: each writes I and nothing else. That LD F uses the whole byte and not its low nibble
is the resolution C2 of 90_conflicts.md (log entry 17). -/
def Obligations.IndexInstructionsWriteIAlone : Prop :=
  ∀ (nnn : Addr) (x : Reg) (s : State),
    (∃ t, exec (.ldI nnn) s = .next t ∧ t.i.toNat = nnn.toNat ∧ OnlyChanges [.index] s t) ∧
    (∃ t, exec (.addI x) s = .next t ∧ t.i.toNat = (s.i.toNat + (s.reg x).toNat) % 65536 ∧
      OnlyChanges [.index] s t) ∧
    (∃ t, exec (.ldFont x) s = .next t ∧ t.i.toNat = 5 * (s.reg x).toNat ∧ OnlyChanges [.index] s t)

/-- 41_transfer.md R134: the three digits, or MEMORY_BOUNDS with nothing stored, which is the spec's own D3. -/
def Obligations.BcdStoresThreeDigits : Prop :=
  ∀ (x : Reg) (s : State),
    (s.i.toNat + 2 ≤ 0xFFF → ∃ t, exec (.ldBcd x) s = .next t ∧
      (t.load s.i.toNat).toNat = (s.reg x).toNat / 100 ∧
      (t.load (s.i.toNat + 1)).toNat = (s.reg x).toNat / 10 % 10 ∧
      (t.load (s.i.toNat + 2)).toNat = (s.reg x).toNat % 10 ∧
      (∀ a, a < s.i.toNat ∨ s.i.toNat + 2 < a → t.load a = s.load a) ∧ OnlyChanges [.memory] s t) ∧
    (0xFFF < s.i.toNat + 2 → ∃ t, exec (.ldBcd x) s = .next t ∧ TakesFault .memoryBounds (.ldBcd x) s t)

/-- 41_transfer.md R135: V0 to Vx in order, or MEMORY_BOUNDS with nothing stored, which is the spec's own D3; that I
stays is its D18. -/
def Obligations.BlockStoreWritesRegistersInOrder : Prop :=
  ∀ (x : Reg) (s : State),
    (s.i.toNat + x.toNat ≤ 0xFFF → ∃ t, exec (.storeRegs x) s = .next t ∧
      (∀ r : Reg, r.toNat ≤ x.toNat → t.load (s.i.toNat + r.toNat) = s.reg r) ∧
      (∀ a, a < s.i.toNat ∨ s.i.toNat + x.toNat < a → t.load a = s.load a) ∧
      OnlyChanges [.memory] s t) ∧
    (0xFFF < s.i.toNat + x.toNat →
      ∃ t, exec (.storeRegs x) s = .next t ∧ TakesFault .memoryBounds (.storeRegs x) s t)

/-- 41_transfer.md R136: V0 to Vx in order, or MEMORY_BOUNDS with nothing loaded, which is the spec's own D3; that I
stays is its D18. -/
def Obligations.BlockLoadReadsRegistersInOrder : Prop :=
  ∀ (x : Reg) (s : State),
    (s.i.toNat + x.toNat ≤ 0xFFF → ∃ t, exec (.loadRegs x) s = .next t ∧
      (∀ r : Reg, r.toNat ≤ x.toNat → t.reg r = s.load (s.i.toNat + r.toNat)) ∧
      (∀ r : Reg, x.toNat < r.toNat → t.reg r = s.reg r) ∧ OnlyChanges [.regs] s t) ∧
    (0xFFF < s.i.toNat + x.toNat →
      ∃ t, exec (.loadRegs x) s = .next t ∧ TakesFault .memoryBounds (.loadRegs x) s t)

/-! ### Control flow (42_control.md); PC is past the instruction on entry -/

/-- 42_control.md R151, R153, R159: PC takes the target unmasked, and a target above 0xFFE fails at the next fetch. -/
def Obligations.NopAndJumps : Prop :=
  ∀ (nnn : Addr) (s : State),
    exec .nop s = .next s ∧
    (∃ t, exec (.jp nnn) s = .next t ∧ WritesPc nnn.toNat s t ∧ (nnn.toNat = 0xFFF → t.fetch = none)) ∧
    (∃ t, exec (.jpV0 nnn) s = .next t ∧ WritesPc (nnn.toNat + (s.reg 0).toNat) s t ∧
      (0xFFE < nnn.toNat + (s.reg 0).toNat → t.fetch = none))

/-- 42_control.md R154: the push of PC and the jump, or STACK_OVERFLOW with neither, as the spec's own D5 and D6 record
it; how SP counts the slots is its D23. -/
def Obligations.CallPushesTheReturnAddress : Prop :=
  ∀ (nnn : Addr) (s : State),
    (s.sp.val < 16 → ∃ t, exec (.call nnn) s = .next t ∧ t.sp.val = s.sp.val + 1 ∧
      t.stack.toList[s.sp.val]? = some s.pc ∧
      (∀ k, k ≠ s.sp.val → t.stack.toList[k]? = s.stack.toList[k]?) ∧
      t.pc.toNat = nnn.toNat ∧ OnlyChanges [.stack, .pc] s t) ∧
    (s.sp.val = 16 → ∃ t, exec (.call nnn) s = .next t ∧ TakesFault .stackOverflow (.call nnn) s t)

/-- 42_control.md R152: the pop into PC, or STACK_UNDERFLOW without it, as the spec's own D5 and D6 record it; how SP
counts the slots is its D23. -/
def Obligations.ReturnPopsTheStack : Prop :=
  ∀ s : State,
    (0 < s.sp.val → ∃ t, exec .ret s = .next t ∧ t.sp.val + 1 = s.sp.val ∧
      some t.pc = s.stack.toList[s.sp.val - 1]? ∧ t.stack = s.stack ∧ OnlyChanges [.stack, .pc] s t) ∧
    (s.sp.val = 0 → ∃ t, exec .ret s = .next t ∧ TakesFault .stackUnderflow .ret s t)

/-- 42_control.md R152, R154, 10_state.md R29: a RET right after a CALL comes back to the address after the CALL and
leaves the stack pointer as it was. -/
def Obligations.ReturnUndoesCall : Prop :=
  ∀ (nnn : Addr) (s : State), s.sp.val < 16 → ∃ t u, exec (.call nnn) s = .next t ∧
    (∀ pc', exec .ret (t.setPc pc') = .next u) ∧ u.pc = s.pc ∧ u.sp = s.sp ∧
    OnlyChanges [.stack] s u

/-- 42_control.md R155, R156: skip on comparing a register with a byte; a PC above 0xFFE fails at the next fetch. -/
def Obligations.SkipOnImmediate : Prop :=
  ∀ (x : Reg) (kk : Byte) (s : State),
    (∃ t, exec (.seByte x kk) s = .next t ∧ t.pc = (if s.reg x = kk then s.pc + 2 else s.pc) ∧
      OnlyChanges [.pc] s t ∧ (0xFFE < t.pc.toNat → t.fetch = none)) ∧
    (∃ t, exec (.sneByte x kk) s = .next t ∧ t.pc = (if s.reg x = kk then s.pc else s.pc + 2) ∧
      OnlyChanges [.pc] s t)

/-- 42_control.md R157, R158: skip on comparing two registers; with `d4` not 0 the word is no instruction. -/
def Obligations.SkipOnRegisters : Prop :=
  ∀ (x y : Reg) (s : State),
    (∃ t, exec (.seReg x y) s = .next t ∧ t.pc = (if s.reg x = s.reg y then s.pc + 2 else s.pc) ∧
      OnlyChanges [.pc] s t) ∧
    (∃ t, exec (.sneReg x y) s = .next t ∧ t.pc = (if s.reg x = s.reg y then s.pc else s.pc + 2) ∧
      OnlyChanges [.pc] s t) ∧
    (∀ n : Nibble, n ≠ 0 → decode (packXYN 0x5 x y n) = none ∧ decode (packXYN 0x9 x y n) = none)

/-! ### Display (43_draw.md) -/

/-- 43_draw.md R171: every pixel is false, GET_DISPLAY returns all false, and VF stays. -/
def Obligations.ClearUnsetsEveryPixel : Prop :=
  ∀ s : State, ∃ t, exec .cls s = .next t ∧ (∀ x y, t.fb.pixel x y = false) ∧ OnlyChanges [.display] s t ∧
    ∀ c : Config, ∃ pixels, applyCommand c .getDisplay t = .next (t, .display pixels) ∧ ∀ p ∈ pixels, p = false

/-- 43_draw.md R172, R173: the row-by-row draw is `FB XOR S` for the wrapped sprite mask `S`, VF is 1 exactly when
`FB AND S` is not all zero, and a draw addressing above 0xFFF faults with nothing changed. The bit order of a row is the
spec's own D9 (log entry 15), the bounds its D3, `n = 0` its D16. -/
def Obligations.DrawXorsTheSpriteMask : Prop :=
  ∀ (x y : Reg) (n : Nibble) (s : State),
    (n.toNat = 0 ∨ s.i.toNat + n.toNat - 1 ≤ 0xFFF → ∃ t, exec (.drw x y n) s = .next t ∧
      (∀ px py, px < 64 → py < 32 →
        (SpriteCovers s x y n px py → t.fb.pixel px py = !s.fb.pixel px py) ∧
        (¬ SpriteCovers s x y n px py → t.fb.pixel px py = s.fb.pixel px py)) ∧
      ((∃ px py, px < 64 ∧ py < 32 ∧ SpriteCovers s x y n px py ∧ s.fb.pixel px py = true) →
        t.reg vf = 1) ∧
      ((∀ px py, px < 64 → py < 32 → SpriteCovers s x y n px py → s.fb.pixel px py = false) →
        t.reg vf = 0) ∧
      (∀ r, r ≠ vf → t.reg r = s.reg r) ∧ OnlyChanges [.display, .regs] s t) ∧
    (0 < n.toNat → 0xFFF < s.i.toNat + n.toNat - 1 →
      ∃ t, exec (.drw x y n) s = .next t ∧ TakesFault .memoryBounds (.drw x y n) s t)

/-- 43_draw.md R172, R173, the source's own example generalised: drawing the same sprite twice at the same place, with no
coordinate held in VF, gives the framebuffer back. Where the draw is in bounds is the spec's own D3. -/
def Obligations.DrawTwiceRestoresTheDisplay : Prop :=
  ∀ (x y : Reg) (n : Nibble) (s : State), x ≠ vf → y ≠ vf → n.toNat = 0 ∨ s.i.toNat + n.toNat - 1 ≤ 0xFFF →
    ∃ t u, exec (.drw x y n) s = .next t ∧ exec (.drw x y n) t = .next u ∧ u.fb = s.fb

/-! ### Keypad and timers (44_keys_timers.md) -/

/-- 44_keys_timers.md R181, R182: the skips on a key's level; KEY_INDEX for a byte above 15 is the spec's own D4. -/
def Obligations.KeySkips : Prop :=
  ∀ (x : Reg) (s : State),
    (∀ k, (h : k < 16) → (s.reg x).toNat = k →
      (∃ t, exec (.skp x) s = .next t ∧ OnlyChanges [.pc] s t ∧
        t.pc = (if s.key[k] = true then s.pc + 2 else s.pc)) ∧
      (∃ t, exec (.sknp x) s = .next t ∧ OnlyChanges [.pc] s t ∧
        t.pc = (if s.key[k] = true then s.pc else s.pc + 2))) ∧
    (15 < (s.reg x).toNat →
      (∃ t, exec (.skp x) s = .next t ∧ TakesFault .keyIndex (.skp x) s t) ∧
      (∃ t, exec (.sknp x) s = .next t ∧ TakesFault .keyIndex (.sknp x) s t))

/-- 44_keys_timers.md R183, R185: the loads from and to the delay timer. -/
def Obligations.DelayTimerLoads : Prop :=
  ∀ (x : Reg) (s : State),
    (∃ t, exec (.ldFromDt x) s = .next t ∧ WritesReg x s.dt s t) ∧
    (∃ t, exec (.ldToDt x) s = .next t ∧ t.dt = s.reg x ∧ t.st = s.st ∧ OnlyChanges [.timers] s t)

/-- 44_keys_timers.md R186: the load of the sound timer. No command but TICK_TIMERS emits the TONE; after a load of 1 on a
running core the next tick does, and the one after it does not, the spec's own D15. -/
def Obligations.SoundTimerLoadEmitsNoTone : Prop :=
  (∀ (x : Reg) (s : State), ∃ t, exec (.ldToSt x) s = .next t ∧ t.st = s.reg x ∧ t.dt = s.dt ∧
    OnlyChanges [.timers] s t ∧
    ∀ c : Config, s.halted = false → s.reg x = 1 →
      ∃ u, applyCommands c [.tickTimers, .tickTimers] t = .next (u, [.ticked true, .ticked false]) ∧ u.st = 0) ∧
  (∀ (c : Config) (cmd : Command) (s t : State) (r : Response), cmd ≠ .tickTimers →
    applyCommand c cmd s = .next (t, r) → ∀ tone, r ≠ .ticked tone)

/-- 44_keys_timers.md R184: PC back to the instruction while no key is pressed, else the lowest pressed key. -/
def Obligations.KeyWaitTakesTheLowestKey : Prop :=
  ∀ (x : Reg) (s : State),
    ((∀ k, (h : k < 16) → s.key[k] = false) →
      ∃ t, exec (.ldKey x) s = .next t ∧ t.pc = s.pc - 2 ∧ OnlyChanges [.pc] s t) ∧
    (∀ k, (h : k < 16) → s.key[k] = true → (∀ j, (hj : j < k) → s.key[j] = false) →
      ∃ t, exec (.ldKey x) s = .next t ∧ WritesReg x (BitVec.ofNat 8 k) s t)

/-- 44_keys_timers.md R187, derived by the spec: with no key pressed the core stays in WAIT for any number of STEPs, no state
written at all; a pressed key releases it. -/
def Obligations.KeyWaitIsAFixedPointUntilAKey : Prop :=
  ∀ (x : Reg) (s : State), s.halted = false → NextIs s (.ldKey x) →
    ((∀ k, (h : k < 16) → s.key[k] = false) → ∀ n, Sys2Proof.core.run n s = .next s) ∧
    (∀ k, (h : k < 16) → s.key[k] = true → (∀ j, (hj : j < k) → s.key[j] = false) →
      ∃ t, step s = .next t ∧ t.pc = s.pc + 2 ∧ t.reg x = BitVec.ofNat 8 k ∧
        (∀ r, r ≠ x → t.reg r = s.reg r) ∧ OnlyChanges [.regs, .pc] s t)
end

