-- ==== Sys2Proof/Laws/Display.lean ====
section
/-! SUPPORT. The laws of the framebuffer: which pixel an XOR changes, that a blank one has none set, and what a
sprite's draw does to every pixel. -/

namespace Sys2Proof.Machine

/-- XORing a pixel toggles that pixel and leaves every other alone; coordinates wrap (43_draw.md R172). -/
theorem Framebuffer.pixel_flip (fb : Framebuffer) (x y px py : Nat) :
    (fb.flip x y).pixel px py =
      if px % 64 = x % 64 ∧ py % 32 = y % 32 then !fb.pixel px py else fb.pixel px py := by
  by_cases hy : py % 32 = y % 32
  · by_cases hx : px % 64 = x % 64
    · simp [Framebuffer.pixel, Framebuffer.flip, hx, hy]
    · simp [Framebuffer.pixel, Framebuffer.flip, hx, hy, Ne.symm hx]
  · simp [Framebuffer.pixel, Framebuffer.flip, hy, Ne.symm hy]

/-- No pixel of a blank framebuffer is set (43_draw.md R171). -/
theorem Framebuffer.pixel_blank (x y : Nat) : Framebuffer.pixel Framebuffer.blank x y = false := by
  simp [Framebuffer.pixel, Framebuffer.blank]

/-- Two framebuffers with the same 2048 pixels are the same. -/
theorem Framebuffer.ext_of_pixel {f g : Framebuffer}
    (h : ∀ x y, x < 64 → y < 32 → f.pixel x y = g.pixel x y) : f = g := by
  refine Vector.ext fun y hy => Vector.ext fun x hx => ?_
  simpa [Framebuffer.pixel, Nat.mod_eq_of_lt hx, Nat.mod_eq_of_lt hy] using h x y hx hy

/-- A pixel depends on its coordinates only as they wrap (43_draw.md R170). -/
theorem Framebuffer.pixel_wrap (f : Framebuffer) (x y : Nat) :
    f.pixel (x % 64) (y % 32) = f.pixel x y := by
  simp [Framebuffer.pixel]

/-! ### A sprite's draw -/

/-- The set sprite bits of a draw, row by row and left to right, as the places they are drawn at (43_draw.md R172). -/
def spritePoints (m : Memory) (base n x0 y0 : Nat) : List (Nat × Nat) :=
  (List.range n).flatMap fun r =>
    ((List.range 8).filter fun c => (m.read (base + r)).getLsbD (7 - c)).map fun c => (x0 + c, y0 + r)

/-- A draw plots its set sprite bits one after the other (43_draw.md R172). -/
theorem drawSprite_eq_plots (m : Memory) (base n x0 y0 : Nat) (fb : Framebuffer) :
    drawSprite m base n x0 y0 fb =
      (spritePoints m base n x0 y0).foldl (fun d p => plotBit d p.1 p.2) (fb, false) := by
  simp only [drawSprite, drawRow, spritePoints, List.foldl_flatMap, List.foldl_map, List.foldl_filter]

/-- Two places are drawn on the same pixel (43_draw.md R170). -/
def SamePixel (p q : Nat × Nat) : Prop := p.1 % 64 = q.1 % 64 ∧ p.2 % 32 = q.2 % 32

/-- The places a draw plots (43_draw.md R172). -/
theorem mem_spritePoints {m : Memory} {base n x0 y0 : Nat} {p : Nat × Nat} :
    p ∈ spritePoints m base n x0 y0 ↔
      ∃ r < n, ∃ c < 8, (m.read (base + r)).getLsbD (7 - c) = true ∧ p = (x0 + c, y0 + r) := by
  simp only [spritePoints, List.mem_flatMap, List.mem_map, List.mem_filter, List.mem_range]
  constructor
  · rintro ⟨r, hr, c, ⟨hc, hb⟩, rfl⟩; exact ⟨r, hr, c, hc, hb, rfl⟩
  · rintro ⟨r, hr, c, hc, hb, rfl⟩; exact ⟨r, hr, c, ⟨hc, hb⟩, rfl⟩

/-- A sprite of at most 32 rows plots no pixel twice, wrapped or not (43_draw.md R172, R173). -/
theorem spritePoints_distinct (m : Memory) (base n x0 y0 : Nat) (hn : n ≤ 32) :
    (spritePoints m base n x0 y0).Pairwise (fun p q => ¬ SamePixel p q) := by
  rw [spritePoints, List.pairwise_flatMap]
  constructor
  · intro r _
    rw [List.pairwise_map]
    refine List.Pairwise.imp_of_mem ?_ ((List.pairwise_lt_range (n := 8)).filter _)
    intro a b ha hb hab h
    have h1 := List.mem_range.1 (List.mem_filter.1 ha).1
    have h2 := List.mem_range.1 (List.mem_filter.1 hb).1
    have := h.1
    simp only at this
    omega
  · refine List.Pairwise.imp_of_mem ?_ (List.pairwise_lt_range (n := n))
    intro a b ha hb hab p hp q hq h
    simp only [List.mem_map] at hp hq
    obtain ⟨c, _, rfl⟩ := hp
    obtain ⟨d, _, rfl⟩ := hq
    have h1 := List.mem_range.1 ha
    have h2 := List.mem_range.1 hb
    have := h.2
    simp only at this
    omega

/-- Plots on different pixels toggle the plotted pixels and leave every other alone (43_draw.md R173). -/
theorem plots_pixel (L : List (Nat × Nat)) (hL : L.Pairwise (fun p q => ¬ SamePixel p q))
    (d : Framebuffer × Bool) (px py : Nat) :
    ((∃ p ∈ L, SamePixel p (px, py)) →
      (L.foldl (fun d p => plotBit d p.1 p.2) d).1.pixel px py = !d.1.pixel px py) ∧
    ((¬ ∃ p ∈ L, SamePixel p (px, py)) →
      (L.foldl (fun d p => plotBit d p.1 p.2) d).1.pixel px py = d.1.pixel px py) := by
  induction L generalizing d with
  | nil => simp
  | cons q L ih =>
    obtain ⟨hq, hL⟩ := List.pairwise_cons.1 hL
    obtain ⟨i1, i2⟩ := ih hL (plotBit d q.1 q.2)
    simp only [List.foldl_cons]
    by_cases e : SamePixel q (px, py)
    · have none : ¬ ∃ p ∈ L, SamePixel p (px, py) := by
        rintro ⟨p, hp, hs⟩
        exact hq p hp ⟨e.1.trans hs.1.symm, e.2.trans hs.2.symm⟩
      refine ⟨fun _ => ?_, fun h => absurd ⟨q, List.mem_cons_self, e⟩ h⟩
      rw [i2 none, plotBit, Framebuffer.pixel_flip, if_pos ⟨e.1.symm, e.2.symm⟩]
    · have pix : (plotBit d q.1 q.2).1.pixel px py = d.1.pixel px py := by
        rw [plotBit, Framebuffer.pixel_flip, if_neg (fun h => e ⟨h.1.symm, h.2.symm⟩)]
      rw [pix] at i1 i2
      simpa [e] using And.intro i1 i2

/-- Plots on different pixels collide exactly when one of them finds its pixel set (43_draw.md R173). -/
theorem plots_collision (L : List (Nat × Nat)) (hL : L.Pairwise (fun p q => ¬ SamePixel p q))
    (d : Framebuffer × Bool) :
    (L.foldl (fun d p => plotBit d p.1 p.2) d).2 = (d.2 || L.any (fun p => d.1.pixel p.1 p.2)) := by
  induction L generalizing d with
  | nil => simp
  | cons q L ih =>
    obtain ⟨hq, hL⟩ := List.pairwise_cons.1 hL
    rw [List.foldl_cons, ih hL, List.any_cons, ← Bool.or_assoc]
    congr 1
    have e : ∀ p ∈ L, (plotBit d q.1 q.2).1.pixel p.1 p.2 = d.1.pixel p.1 p.2 := by
      intro p hp
      rw [plotBit, Framebuffer.pixel_flip, if_neg (fun h => hq p hp ⟨h.1.symm, h.2.symm⟩)]
    rw [Bool.eq_iff_iff]
    simp only [List.any_eq_true]
    constructor <;> (rintro ⟨p, hp, h⟩; exact ⟨p, hp, by simpa [e p hp] using h⟩)

end Sys2Proof.Machine
end

