-- ==== Sys2Proof/Laws/Encoding.lean ====
section
/-! SUPPORT. The layouts of a word as numbers, and the fields the decoder reads from each layout. -/

namespace Sys2Proof

/-- A word of two bytes as a number: big-endian (20_memory.md R54). -/
theorem toNat_wordOfBytes (hi lo : Byte) : (wordOfBytes hi lo).toNat = 256 * hi.toNat + lo.toNat := by
  rw [wordOfBytes, BitVec.toNat_append, ← Nat.shiftLeft_add_eq_or_of_lt lo.isLt, Nat.shiftLeft_eq]
  omega

/-- The two bytes of a word make the word again (20_memory.md R54). -/
theorem wordOfBytes_bytes (w : Word) : wordOfBytes (w.extractLsb' 8 8) (w.extractLsb' 0 8) = w := by
  apply BitVec.eq_of_toNat_eq
  simp only [toNat_wordOfBytes, BitVec.extractLsb'_toNat, Nat.shiftRight_eq_div_pow]
  omega

theorem toNat_packNnn (d : Nibble) (nnn : Addr) :
    (packNnn d nnn).toNat = 4096 * d.toNat + nnn.toNat := by
  rw [packNnn, BitVec.toNat_append, ← Nat.shiftLeft_add_eq_or_of_lt nnn.isLt, Nat.shiftLeft_eq]
  omega

theorem toNat_packXKk (d : Nibble) (x : Reg) (kk : Byte) :
    (packXKk d x kk).toNat = 4096 * d.toNat + 256 * x.toNat + kk.toNat := by
  rw [packXKk, BitVec.toNat_append, ← Nat.shiftLeft_add_eq_or_of_lt kk.isLt, BitVec.toNat_append,
    ← Nat.shiftLeft_add_eq_or_of_lt x.isLt]
  simp only [Nat.shiftLeft_eq]
  omega

theorem toNat_packXYN (d : Nibble) (x y : Reg) (n : Nibble) :
    (packXYN d x y n).toNat = 4096 * d.toNat + 256 * x.toNat + 16 * y.toNat + n.toNat := by
  rw [packXYN, BitVec.toNat_append, ← Nat.shiftLeft_add_eq_or_of_lt n.isLt, BitVec.toNat_append,
    ← Nat.shiftLeft_add_eq_or_of_lt y.isLt, BitVec.toNat_append, ← Nat.shiftLeft_add_eq_or_of_lt x.isLt]
  simp only [Nat.shiftLeft_eq]
  omega

/-! ### The fields of a word as numbers (30_encoding.md R81) -/

theorem toNat_fieldD1 (op : Word) : (fieldD1 op).toNat = op.toNat / 4096 := by
  simp only [fieldD1, BitVec.extractLsb'_toNat, Nat.shiftRight_eq_div_pow]
  omega

theorem toNat_fieldX (op : Word) : (fieldX op).toNat = op.toNat / 256 % 16 := by
  simp only [fieldX, BitVec.extractLsb'_toNat, Nat.shiftRight_eq_div_pow]

theorem toNat_fieldY (op : Word) : (fieldY op).toNat = op.toNat / 16 % 16 := by
  simp only [fieldY, BitVec.extractLsb'_toNat, Nat.shiftRight_eq_div_pow]

theorem toNat_fieldN (op : Word) : (fieldN op).toNat = op.toNat % 16 := by
  simp only [fieldN, BitVec.extractLsb'_toNat, Nat.shiftRight_eq_div_pow]
  omega

theorem toNat_fieldKk (op : Word) : (fieldKk op).toNat = op.toNat % 256 := by
  simp only [fieldKk, BitVec.extractLsb'_toNat, Nat.shiftRight_eq_div_pow]
  omega

theorem toNat_fieldNnn (op : Word) : (fieldNnn op).toNat = op.toNat % 4096 := by
  simp only [fieldNnn, BitVec.extractLsb'_toNat, Nat.shiftRight_eq_div_pow]
  omega

/-! ### The fields of each layout -/

@[simp] theorem fieldD1_packNnn (d : Nibble) (nnn : Addr) : fieldD1 (packNnn d nnn) = d := by
  apply BitVec.eq_of_toNat_eq; rw [toNat_fieldD1, toNat_packNnn]; omega

@[simp] theorem fieldNnn_packNnn (d : Nibble) (nnn : Addr) : fieldNnn (packNnn d nnn) = nnn := by
  apply BitVec.eq_of_toNat_eq; rw [toNat_fieldNnn, toNat_packNnn]; omega

@[simp] theorem fieldD1_packXKk (d : Nibble) (x : Reg) (kk : Byte) : fieldD1 (packXKk d x kk) = d := by
  apply BitVec.eq_of_toNat_eq; rw [toNat_fieldD1, toNat_packXKk]; omega

@[simp] theorem fieldX_packXKk (d : Nibble) (x : Reg) (kk : Byte) : fieldX (packXKk d x kk) = x := by
  apply BitVec.eq_of_toNat_eq; rw [toNat_fieldX, toNat_packXKk]; omega

@[simp] theorem fieldKk_packXKk (d : Nibble) (x : Reg) (kk : Byte) : fieldKk (packXKk d x kk) = kk := by
  apply BitVec.eq_of_toNat_eq; rw [toNat_fieldKk, toNat_packXKk]; omega

@[simp] theorem fieldD1_packXYN (d : Nibble) (x y : Reg) (n : Nibble) : fieldD1 (packXYN d x y n) = d := by
  apply BitVec.eq_of_toNat_eq; rw [toNat_fieldD1, toNat_packXYN]; omega

@[simp] theorem fieldX_packXYN (d : Nibble) (x y : Reg) (n : Nibble) : fieldX (packXYN d x y n) = x := by
  apply BitVec.eq_of_toNat_eq; rw [toNat_fieldX, toNat_packXYN]; omega

@[simp] theorem fieldY_packXYN (d : Nibble) (x y : Reg) (n : Nibble) : fieldY (packXYN d x y n) = y := by
  apply BitVec.eq_of_toNat_eq; rw [toNat_fieldY, toNat_packXYN]; omega

@[simp] theorem fieldN_packXYN (d : Nibble) (x y : Reg) (n : Nibble) : fieldN (packXYN d x y n) = n := by
  apply BitVec.eq_of_toNat_eq; rw [toNat_fieldN, toNat_packXYN]; omega

/-! ### A word from its fields -/

theorem packNnn_fields (op : Word) : packNnn (fieldD1 op) (fieldNnn op) = op := by
  apply BitVec.eq_of_toNat_eq; rw [toNat_packNnn, toNat_fieldD1, toNat_fieldNnn]; omega

theorem packXKk_fields (op : Word) : packXKk (fieldD1 op) (fieldX op) (fieldKk op) = op := by
  apply BitVec.eq_of_toNat_eq; rw [toNat_packXKk, toNat_fieldD1, toNat_fieldX, toNat_fieldKk]; omega

theorem packXYN_fields (op : Word) : packXYN (fieldD1 op) (fieldX op) (fieldY op) (fieldN op) = op := by
  apply BitVec.eq_of_toNat_eq
  rw [toNat_packXYN, toNat_fieldD1, toNat_fieldX, toNat_fieldY, toNat_fieldN]
  omega

/-! ### The masks of the opcode table (30_encoding.md R83) -/

/-- Mask 0xF000 keeps `d1`. -/
theorem and_F000 (op : Word) : op &&& 0xF000#16 = packNnn (fieldD1 op) 0 := by
  apply BitVec.eq_of_getLsbD_eq
  intro i hi
  simp only [packNnn, BitVec.getLsbD_append, BitVec.getLsbD_and]
  interval_cases i <;> simp [fieldD1]

/-- Mask 0xF00F keeps `d1` and `d4`. -/
theorem and_F00F (op : Word) : op &&& 0xF00F#16 = packXYN (fieldD1 op) 0 0 (fieldN op) := by
  apply BitVec.eq_of_getLsbD_eq
  intro i hi
  simp only [packXYN, BitVec.getLsbD_append, BitVec.getLsbD_and]
  interval_cases i <;> simp [fieldD1, fieldN]

/-- Mask 0xF0FF keeps `d1` and `kk`. -/
theorem and_F0FF (op : Word) : op &&& 0xF0FF#16 = packXKk (fieldD1 op) 0 (fieldKk op) := by
  apply BitVec.eq_of_getLsbD_eq
  intro i hi
  simp only [packXKk, BitVec.getLsbD_append, BitVec.getLsbD_and]
  interval_cases i <;> simp [fieldD1, fieldKk]

end Sys2Proof
end

