-- ==== Sys2Proof/Laws/Memory.lean ====
section
/-! SUPPORT. The laws of memory: a read after a write, that every memory operation keeps the canonical form, and
what the address check says. -/

namespace Sys2Proof.Machine

/-! ### Reading after a write -/

/-- Cells at other addresses do not matter to a read. -/
theorem Memory.read_filter_other {a k : Nat} (m : Memory) (h : k ≠ a) :
    Memory.read (m.filter (fun c => c.1 ≠ a)) k = m.read k := by
  induction m with
  | nil => rfl
  | cons c rest ih =>
    obtain ⟨j, b⟩ := c
    by_cases hj : j = a
    · subst hj; simpa [Memory.read, Ne.symm h] using ih
    · by_cases hk : j = k
      · subst hk; simp [Memory.read, hj]
      · simpa [Memory.read, hj, hk] using ih

/-- An address with no cell reads as it does unlisted. -/
theorem Memory.read_filter_same (a : Nat) (m : Memory) :
    Memory.read (m.filter (fun c => c.1 ≠ a)) a = Memory.initial a := by
  induction m with
  | nil => rfl
  | cons c rest ih =>
    obtain ⟨j, b⟩ := c
    by_cases hj : j = a
    · subst hj; simpa using ih
    · simpa [Memory.read, hj] using ih

/-- An inserted cell is found before every cell with a higher address. -/
theorem Memory.read_insertCell (a : Nat) (b : Byte) (m : Memory) (h : ∀ c ∈ m, c.1 ≠ a) (k : Nat) :
    Memory.read (Memory.insertCell a b m) k = if k = a then b else m.read k := by
  induction m with
  | nil =>
    by_cases e : k = a
    · subst e; simp [Memory.insertCell, Memory.read]
    · simp [Memory.insertCell, Memory.read, e, Ne.symm e]
  | cons c rest ih =>
    obtain ⟨j, d⟩ := c
    have hj : j ≠ a := h (j, d) (by simp)
    have ih := ih (fun c hc => h c (by simp [hc]))
    by_cases lt : a < j
    · by_cases e : k = a
      · subst e; simp [Memory.insertCell, lt, Memory.read]
      · simp [Memory.insertCell, lt, Memory.read, e, Ne.symm e]
    · by_cases e : j = k
      · subst e; simp [Memory.insertCell, lt, Memory.read, hj]
      · simp [Memory.insertCell, lt, Memory.read, e, ih]

/-- A read gives the byte last written at its address, and every other address is left alone. It holds of every
list, canonical or not. -/
theorem Memory.read_write (m : Memory) (a : Nat) (b : Byte) (k : Nat) :
    (m.write a b).read k = if k = a then b else m.read k := by
  unfold Memory.write
  split
  · next hb =>
    by_cases e : k = a
    · subst e; simpa [hb] using Memory.read_filter_same k m
    · simpa [e] using Memory.read_filter_other m e
  · rw [Memory.read_insertCell _ _ _ (by simp)]
    by_cases e : k = a
    · simp [e]
    · simpa [e] using Memory.read_filter_other m e

/-- A read after storing bytes upward from `a`. -/
theorem Memory.read_writeBytes (bytes : List Byte) (m : Memory) (a k : Nat) :
    (m.writeBytes a bytes).read k =
      if a ≤ k then bytes[k - a]?.getD (m.read k) else m.read k := by
  induction bytes generalizing m a with
  | nil => simp [Memory.writeBytes]
  | cons b rest ih =>
    rw [Memory.writeBytes, ih, Memory.read_write]
    rcases Nat.lt_trichotomy k a with h | h | h
    · have h1 : ¬ a ≤ k := by omega
      have h2 : ¬ a + 1 ≤ k := by omega
      have h3 : k ≠ a := by omega
      simp [h1, h2, h3]
    · subst h; simp
    · have h1 : a ≤ k := by omega
      have h2 : a + 1 ≤ k := by omega
      have h3 : k ≠ a := by omega
      obtain ⟨d, rfl⟩ := Nat.exists_eq_add_of_le h2
      have e1 : a + 1 + d - (a + 1) = d := by omega
      have e2 : a + 1 + d - a = d + 1 := by omega
      simp [h1, h2, h3, e1, e2]

/-- Outside the stored bytes memory reads as before. -/
theorem State.load_store_outside (s : State) {a k : Nat} (bytes : List Byte)
    (h : k < a ∨ a + bytes.length ≤ k) : (s.store a bytes).load k = s.load k := by
  simp only [State.load, State.store, Memory.read_writeBytes]
  split
  · rw [List.getElem?_eq_none (by omega)]; rfl
  · rfl

/-- The `j`-th stored byte reads back. -/
theorem State.load_store_inside (s : State) {a j : Nat} {bytes : List Byte} {b : Byte}
    (h : bytes[j]? = some b) : (s.store a bytes).load (a + j) = b := by
  simp [State.load, State.store, Memory.read_writeBytes, h]

/-! ### The canonical form -/

/-- The cells an insertion leaves. -/
theorem Memory.mem_insertCell (a : Nat) (b : Byte) (m : Memory) (c : Host.Cell) :
    c ∈ Memory.insertCell a b m ↔ c = (a, b) ∨ c ∈ m := by
  induction m with
  | nil => simp [Memory.insertCell]
  | cons d rest ih =>
    obtain ⟨j, e⟩ := d
    by_cases lt : a < j
    · simp [Memory.insertCell, lt]
    · simp only [Memory.insertCell, lt, if_false, List.mem_cons, ih]; tauto

/-- Inserting at an address that has no cell keeps the addresses strictly rising. -/
theorem Memory.insertCell_sorted (a : Nat) (b : Byte) (m : Memory)
    (hs : (m.map Prod.fst).Pairwise (· < ·)) (h : ∀ c ∈ m, c.1 ≠ a) :
    ((Memory.insertCell a b m).map Prod.fst).Pairwise (· < ·) := by
  induction m with
  | nil => simp [Memory.insertCell]
  | cons c rest ih =>
    obtain ⟨j, d⟩ := c
    have hj : j ≠ a := h (j, d) (by simp)
    simp only [List.map_cons, List.pairwise_cons] at hs
    by_cases lt : a < j
    · simp only [Memory.insertCell, lt, if_true, List.map_cons, List.pairwise_cons]
      refine ⟨fun k hk => ?_, hs⟩
      rcases List.mem_cons.1 hk with rfl | hk
      · exact lt
      · exact Nat.lt_trans lt (hs.1 k hk)
    · simp only [Memory.insertCell, lt, if_false, List.map_cons, List.pairwise_cons]
      refine ⟨fun k hk => ?_, ih hs.2 (fun c hc => h c (by simp [hc]))⟩
      obtain ⟨c, hc, rfl⟩ := List.mem_map.1 hk
      rcases (Memory.mem_insertCell a b rest c).1 hc with rfl | hc
      · show j < a
        omega
      · exact hs.1 _ (List.mem_map_of_mem hc)

/-- A write inside the address space keeps the canonical form. -/
theorem Memory.write_wf {m : Memory} (h : m.wf) {a : Nat} (ha : a < Config.memSize) (b : Byte) :
    (m.write a b).wf := by
  have sorted : ((m.filter (fun c => c.1 ≠ a)).map Prod.fst).Pairwise (· < ·) :=
    h.1.sublist (List.filter_sublist.map _)
  have cells : ∀ c ∈ m.filter (fun c => c.1 ≠ a), c.1 < Config.memSize ∧ c.2 ≠ Memory.initial c.1 :=
    fun c hc => h.2 c (List.mem_filter.1 hc).1
  unfold Memory.write
  split
  · exact ⟨sorted, cells⟩
  · next hb =>
    refine ⟨Memory.insertCell_sorted a b _ sorted (by simp), fun c hc => ?_⟩
    rcases (Memory.mem_insertCell a b _ c).1 hc with rfl | hc
    · exact ⟨ha, hb⟩
    · exact cells c hc

/-- Storing bytes inside the address space keeps the canonical form. -/
theorem Memory.writeBytes_wf (bytes : List Byte) {m : Memory} (h : m.wf) {a : Nat}
    (ha : a + bytes.length ≤ Config.memSize) : (m.writeBytes a bytes).wf := by
  induction bytes generalizing m a with
  | nil => exact h
  | cons b rest ih =>
    simp only [List.length_cons] at ha
    exact ih (Memory.write_wf h (by omega) b) (by omega)

/-- Two canonical memories that read the same at every address are the same list. -/
theorem Memory.ext_of_wf {m n : Memory} (hm : m.wf) (hn : n.wf) (h : ∀ a, m.read a = n.read a) :
    m = n := by
  have below : ∀ (l : Memory) (k : Nat), (∀ c ∈ l, k < c.1) → l.read k = Memory.initial k := by
    intro l k hl
    induction l with
    | nil => rfl
    | cons c rest ih =>
      obtain ⟨j, b⟩ := c
      have hj : j ≠ k := fun e => absurd (hl (j, b) (by simp)) (by simp [e])
      simpa [Memory.read, hj] using ih (fun c hc => hl c (by simp [hc]))
  have rises : ∀ {j : Nat} {b : Byte} {l : Memory}, Memory.wf ((j, b) :: l) → ∀ c ∈ l, j < c.1 :=
    fun hl c hc => (List.pairwise_cons.1 hl.1).1 _ (List.mem_map_of_mem hc)
  have tail : ∀ {c : Host.Cell} {l : Memory}, Memory.wf (c :: l) → Memory.wf l := fun hl =>
    ⟨(List.pairwise_cons.1 hl.1).2, fun c hc => hl.2 c (by simp [hc])⟩
  induction m generalizing n with
  | nil =>
    cases n with
    | nil => rfl
    | cons c rest =>
      obtain ⟨j, b⟩ := c
      exact absurd (by simpa [Memory.read] using (h j).symm) (hn.2 (j, b) (by simp)).2
  | cons c rest ih =>
    obtain ⟨j, b⟩ := c
    cases n with
    | nil => exact absurd (by simpa [Memory.read] using h j) (hm.2 (j, b) (by simp)).2
    | cons d rest' =>
      obtain ⟨k, e⟩ := d
      have hjk : j = k := by
        rcases Nat.lt_trichotomy j k with lt | eq | gt
        · have hj : k ≠ j := by omega
          have := h j
          simp only [Memory.read, if_true, hj, if_false] at this
          rw [below rest' j (fun c hc => Nat.lt_trans lt (rises hn c hc))] at this
          exact absurd this (hm.2 (j, b) (by simp)).2
        · exact eq
        · have hk : j ≠ k := by omega
          have := h k
          simp only [Memory.read, if_true, hk, if_false] at this
          rw [below rest k (fun c hc => Nat.lt_trans gt (rises hm c hc))] at this
          exact absurd this.symm (hn.2 (k, e) (by simp)).2
      subst hjk
      have hb : b = e := by simpa [Memory.read] using h j
      subst hb
      rw [ih (tail hm) (tail hn) (fun a => ?_)]
      by_cases ha : j = a
      · subst ha
        rw [below rest j (rises hm), below rest' j (rises hn)]
      · simpa [Memory.read, ha] using h a

/-! ### The address check -/

/-- The check passes exactly when the last address is inside the address space (20_memory.md R52). -/
theorem addressesValid_iff (base count : Nat) :
    addressesValid base count = true ↔ count = 0 ∨ base + count ≤ Config.memSize := by
  simp only [addressesValid, List.all_eq_true, List.mem_range, decide_eq_true_eq, Config.memSize]
  constructor
  · intro h
    rcases Nat.eq_zero_or_pos count with h0 | h0
    · exact .inl h0
    · have := h (count - 1) (by omega); omega
  · intro h r hr; omega

/-! ### Placing an instruction -/

/-- The fetch after an instruction is placed reads the placed word. -/
theorem fetch_placeAtPc (s : State) (nbits w : Nat) (h : s.pc.toNat ≤ 0xFFE) :
    (placeAtPc s nbits w).fetch = some (tableWord nbits w) := by
  have h' : ¬ 0xFFE < s.pc.toNat := by omega
  generalize hw : tableWord nbits w = word
  have hi := State.load_store_inside s (a := s.pc.toNat) (j := 0) (bytes := bytesOfWord word) rfl
  have lo := State.load_store_inside s (a := s.pc.toNat) (j := 1) (bytes := bytesOfWord word) rfl
  have pc : (s.store s.pc.toNat (bytesOfWord word)).pc = s.pc := rfl
  simp only [placeAtPc, hw, h', if_false, State.fetch, pc, State.wordAt]
  rw [Nat.add_zero] at hi
  rw [hi, lo, wordOfBytes_bytes]

end Sys2Proof.Machine
end

