-- ==== Sys2Proof/Laws/PerInstr.lean ====
section
/-! SUPPORT. The family `InPattern`: the word of an instruction lies in the row of the opcode table its constructor
stands for (30_encoding.md R83, R86), one lemma per constructor. -/

namespace Sys2Proof.Laws.InPattern

/-- The encoded word has the fixed bits of the instruction's row. -/
def Statement (i : Instr) : Prop := i.pattern.covers (encode i) = true

/-- A row that fixes `d1` covers every word of the layout `d1|nnn`. -/
theorem covers_packNnn (d : Nibble) (nnn : Addr) :
    Pattern.covers ⟨0xF000, packNnn d 0⟩ (packNnn d nnn) = true := by
  simp [Pattern.covers, and_F000]

/-- A row that fixes `d1` covers every word of the layout `d1|x|kk`. -/
theorem covers_packXKk (d : Nibble) (x : Reg) (kk : Byte) :
    Pattern.covers ⟨0xF000, packNnn d 0⟩ (packXKk d x kk) = true := by
  simp [Pattern.covers, and_F000]

/-- A row that fixes `d1` covers every word of the layout `d1|x|y|n`. -/
theorem covers_packXYN_any (d : Nibble) (x y : Reg) (n : Nibble) :
    Pattern.covers ⟨0xF000, packNnn d 0⟩ (packXYN d x y n) = true := by
  simp [Pattern.covers, and_F000]

/-- A row that fixes `d1` and `d4` covers the words of the layout `d1|x|y|n` with that `n`. -/
theorem covers_packXYN (d : Nibble) (x y : Reg) (n : Nibble) :
    Pattern.covers ⟨0xF00F, packXYN d 0 0 n⟩ (packXYN d x y n) = true := by
  simp [Pattern.covers, and_F00F]

/-- A row that fixes `d1` and `kk` covers the words of the layout `d1|x|kk` with that `kk`. -/
theorem covers_packXKk_fixed (d : Nibble) (x : Reg) (kk : Byte) :
    Pattern.covers ⟨0xF0FF, packXKk d 0 kk⟩ (packXKk d x kk) = true := by
  simp [Pattern.covers, and_F0FF]

theorem nop : Statement .nop := rfl
theorem cls : Statement .cls := rfl
theorem ret : Statement .ret := rfl
theorem jp (nnn : Addr) : Statement (.jp nnn) := covers_packNnn _ _
theorem call (nnn : Addr) : Statement (.call nnn) := covers_packNnn _ _
theorem seByte (x : Reg) (kk : Byte) : Statement (.seByte x kk) := covers_packXKk _ _ _
theorem sneByte (x : Reg) (kk : Byte) : Statement (.sneByte x kk) := covers_packXKk _ _ _
theorem seReg (x : Reg) (y : Reg) : Statement (.seReg x y) := covers_packXYN _ _ _ _
theorem ldByte (x : Reg) (kk : Byte) : Statement (.ldByte x kk) := covers_packXKk _ _ _
theorem addByte (x : Reg) (kk : Byte) : Statement (.addByte x kk) := covers_packXKk _ _ _
theorem ldReg (x : Reg) (y : Reg) : Statement (.ldReg x y) := covers_packXYN _ _ _ _
theorem or (x : Reg) (y : Reg) : Statement (.or x y) := covers_packXYN _ _ _ _
theorem and (x : Reg) (y : Reg) : Statement (.and x y) := covers_packXYN _ _ _ _
theorem xor (x : Reg) (y : Reg) : Statement (.xor x y) := covers_packXYN _ _ _ _
theorem addReg (x : Reg) (y : Reg) : Statement (.addReg x y) := covers_packXYN _ _ _ _
theorem sub (x : Reg) (y : Reg) : Statement (.sub x y) := covers_packXYN _ _ _ _
theorem shr (x : Reg) : Statement (.shr x) := covers_packXYN _ _ _ _
theorem subn (x : Reg) (y : Reg) : Statement (.subn x y) := covers_packXYN _ _ _ _
theorem shl (x : Reg) : Statement (.shl x) := covers_packXYN _ _ _ _
theorem sneReg (x : Reg) (y : Reg) : Statement (.sneReg x y) := covers_packXYN _ _ _ _
theorem ldI (nnn : Addr) : Statement (.ldI nnn) := covers_packNnn _ _
theorem jpV0 (nnn : Addr) : Statement (.jpV0 nnn) := covers_packNnn _ _
theorem rnd (x : Reg) (kk : Byte) : Statement (.rnd x kk) := covers_packXKk _ _ _
theorem drw (x : Reg) (y : Reg) (n : Nibble) : Statement (.drw x y n) := covers_packXYN_any _ _ _ _
theorem skp (x : Reg) : Statement (.skp x) := covers_packXKk_fixed _ _ _
theorem sknp (x : Reg) : Statement (.sknp x) := covers_packXKk_fixed _ _ _
theorem ldFromDt (x : Reg) : Statement (.ldFromDt x) := covers_packXKk_fixed _ _ _
theorem ldKey (x : Reg) : Statement (.ldKey x) := covers_packXKk_fixed _ _ _
theorem ldToDt (x : Reg) : Statement (.ldToDt x) := covers_packXKk_fixed _ _ _
theorem ldToSt (x : Reg) : Statement (.ldToSt x) := covers_packXKk_fixed _ _ _
theorem addI (x : Reg) : Statement (.addI x) := covers_packXKk_fixed _ _ _
theorem ldFont (x : Reg) : Statement (.ldFont x) := covers_packXKk_fixed _ _ _
theorem ldBcd (x : Reg) : Statement (.ldBcd x) := covers_packXKk_fixed _ _ _
theorem storeRegs (x : Reg) : Statement (.storeRegs x) := covers_packXKk_fixed _ _ _
theorem loadRegs (x : Reg) : Statement (.loadRegs x) := covers_packXKk_fixed _ _ _

end Sys2Proof.Laws.InPattern
end

