-- ==== Sys2Proof/Laws/State.lean ====
section
/-! SUPPORT. What each named update of the state leaves in each field: one lemma per field per update, true by
definition, so that no later proof unfolds a record update. -/

namespace Sys2Proof.Machine

variable (s : State)

/-! ### `setReg` -/

@[simp] theorem State.setReg_mem (x : Reg) (b : Byte) : (s.setReg x b).mem = s.mem := rfl
@[simp] theorem State.setReg_v (x : Reg) (b : Byte) : (s.setReg x b).v = s.v.set x.toNat b x.isLt := rfl
@[simp] theorem State.setReg_i (x : Reg) (b : Byte) : (s.setReg x b).i = s.i := rfl
@[simp] theorem State.setReg_pc (x : Reg) (b : Byte) : (s.setReg x b).pc = s.pc := rfl
@[simp] theorem State.setReg_stack (x : Reg) (b : Byte) : (s.setReg x b).stack = s.stack := rfl
@[simp] theorem State.setReg_sp (x : Reg) (b : Byte) : (s.setReg x b).sp = s.sp := rfl
@[simp] theorem State.setReg_dt (x : Reg) (b : Byte) : (s.setReg x b).dt = s.dt := rfl
@[simp] theorem State.setReg_st (x : Reg) (b : Byte) : (s.setReg x b).st = s.st := rfl
@[simp] theorem State.setReg_fb (x : Reg) (b : Byte) : (s.setReg x b).fb = s.fb := rfl
@[simp] theorem State.setReg_key (x : Reg) (b : Byte) : (s.setReg x b).key = s.key := rfl
@[simp] theorem State.setReg_keyDown (x : Reg) (b : Byte) (k : Byte) : (s.setReg x b).keyDown k = s.keyDown k := rfl
@[simp] theorem State.setReg_halted (x : Reg) (b : Byte) : (s.setReg x b).halted = s.halted := rfl
@[simp] theorem State.setReg_faultCause (x : Reg) (b : Byte) : (s.setReg x b).faultCause = s.faultCause := rfl
@[simp] theorem State.setReg_faultPc (x : Reg) (b : Byte) : (s.setReg x b).faultPc = s.faultPc := rfl
@[simp] theorem State.setReg_faultOpcode (x : Reg) (b : Byte) : (s.setReg x b).faultOpcode = s.faultOpcode := rfl
@[simp] theorem State.setReg_draws (x : Reg) (b : Byte) : (s.setReg x b).draws = s.draws := rfl
@[simp] theorem State.setReg_load (x : Reg) (b : Byte) (a : Nat) : (s.setReg x b).load a = s.load a := rfl

/-! ### `setI` -/

@[simp] theorem State.setI_mem (w : Word) : (s.setI w).mem = s.mem := rfl
@[simp] theorem State.setI_v (w : Word) : (s.setI w).v = s.v := rfl
@[simp] theorem State.setI_i (w : Word) : (s.setI w).i = w := rfl
@[simp] theorem State.setI_pc (w : Word) : (s.setI w).pc = s.pc := rfl
@[simp] theorem State.setI_stack (w : Word) : (s.setI w).stack = s.stack := rfl
@[simp] theorem State.setI_sp (w : Word) : (s.setI w).sp = s.sp := rfl
@[simp] theorem State.setI_dt (w : Word) : (s.setI w).dt = s.dt := rfl
@[simp] theorem State.setI_st (w : Word) : (s.setI w).st = s.st := rfl
@[simp] theorem State.setI_fb (w : Word) : (s.setI w).fb = s.fb := rfl
@[simp] theorem State.setI_key (w : Word) : (s.setI w).key = s.key := rfl
@[simp] theorem State.setI_keyDown (w : Word) (k : Byte) : (s.setI w).keyDown k = s.keyDown k := rfl
@[simp] theorem State.setI_halted (w : Word) : (s.setI w).halted = s.halted := rfl
@[simp] theorem State.setI_faultCause (w : Word) : (s.setI w).faultCause = s.faultCause := rfl
@[simp] theorem State.setI_faultPc (w : Word) : (s.setI w).faultPc = s.faultPc := rfl
@[simp] theorem State.setI_faultOpcode (w : Word) : (s.setI w).faultOpcode = s.faultOpcode := rfl
@[simp] theorem State.setI_draws (w : Word) : (s.setI w).draws = s.draws := rfl
@[simp] theorem State.setI_reg (w : Word) (r : Reg) : (s.setI w).reg r = s.reg r := rfl
@[simp] theorem State.setI_load (w : Word) (a : Nat) : (s.setI w).load a = s.load a := rfl

/-! ### `setPc` -/

@[simp] theorem State.setPc_mem (w : Word) : (s.setPc w).mem = s.mem := rfl
@[simp] theorem State.setPc_v (w : Word) : (s.setPc w).v = s.v := rfl
@[simp] theorem State.setPc_i (w : Word) : (s.setPc w).i = s.i := rfl
@[simp] theorem State.setPc_pc (w : Word) : (s.setPc w).pc = w := rfl
@[simp] theorem State.setPc_stack (w : Word) : (s.setPc w).stack = s.stack := rfl
@[simp] theorem State.setPc_sp (w : Word) : (s.setPc w).sp = s.sp := rfl
@[simp] theorem State.setPc_dt (w : Word) : (s.setPc w).dt = s.dt := rfl
@[simp] theorem State.setPc_st (w : Word) : (s.setPc w).st = s.st := rfl
@[simp] theorem State.setPc_fb (w : Word) : (s.setPc w).fb = s.fb := rfl
@[simp] theorem State.setPc_key (w : Word) : (s.setPc w).key = s.key := rfl
@[simp] theorem State.setPc_keyDown (w : Word) (k : Byte) : (s.setPc w).keyDown k = s.keyDown k := rfl
@[simp] theorem State.setPc_halted (w : Word) : (s.setPc w).halted = s.halted := rfl
@[simp] theorem State.setPc_faultCause (w : Word) : (s.setPc w).faultCause = s.faultCause := rfl
@[simp] theorem State.setPc_faultPc (w : Word) : (s.setPc w).faultPc = s.faultPc := rfl
@[simp] theorem State.setPc_faultOpcode (w : Word) : (s.setPc w).faultOpcode = s.faultOpcode := rfl
@[simp] theorem State.setPc_draws (w : Word) : (s.setPc w).draws = s.draws := rfl
@[simp] theorem State.setPc_reg (w : Word) (r : Reg) : (s.setPc w).reg r = s.reg r := rfl
@[simp] theorem State.setPc_load (w : Word) (a : Nat) : (s.setPc w).load a = s.load a := rfl

/-! ### `setDt` -/

@[simp] theorem State.setDt_mem (b : Byte) : (s.setDt b).mem = s.mem := rfl
@[simp] theorem State.setDt_v (b : Byte) : (s.setDt b).v = s.v := rfl
@[simp] theorem State.setDt_i (b : Byte) : (s.setDt b).i = s.i := rfl
@[simp] theorem State.setDt_pc (b : Byte) : (s.setDt b).pc = s.pc := rfl
@[simp] theorem State.setDt_stack (b : Byte) : (s.setDt b).stack = s.stack := rfl
@[simp] theorem State.setDt_sp (b : Byte) : (s.setDt b).sp = s.sp := rfl
@[simp] theorem State.setDt_dt (b : Byte) : (s.setDt b).dt = b := rfl
@[simp] theorem State.setDt_st (b : Byte) : (s.setDt b).st = s.st := rfl
@[simp] theorem State.setDt_fb (b : Byte) : (s.setDt b).fb = s.fb := rfl
@[simp] theorem State.setDt_key (b : Byte) : (s.setDt b).key = s.key := rfl
@[simp] theorem State.setDt_keyDown (b : Byte) (k : Byte) : (s.setDt b).keyDown k = s.keyDown k := rfl
@[simp] theorem State.setDt_halted (b : Byte) : (s.setDt b).halted = s.halted := rfl
@[simp] theorem State.setDt_faultCause (b : Byte) : (s.setDt b).faultCause = s.faultCause := rfl
@[simp] theorem State.setDt_faultPc (b : Byte) : (s.setDt b).faultPc = s.faultPc := rfl
@[simp] theorem State.setDt_faultOpcode (b : Byte) : (s.setDt b).faultOpcode = s.faultOpcode := rfl
@[simp] theorem State.setDt_draws (b : Byte) : (s.setDt b).draws = s.draws := rfl
@[simp] theorem State.setDt_reg (b : Byte) (r : Reg) : (s.setDt b).reg r = s.reg r := rfl
@[simp] theorem State.setDt_load (b : Byte) (a : Nat) : (s.setDt b).load a = s.load a := rfl

/-! ### `setSt` -/

@[simp] theorem State.setSt_mem (b : Byte) : (s.setSt b).mem = s.mem := rfl
@[simp] theorem State.setSt_v (b : Byte) : (s.setSt b).v = s.v := rfl
@[simp] theorem State.setSt_i (b : Byte) : (s.setSt b).i = s.i := rfl
@[simp] theorem State.setSt_pc (b : Byte) : (s.setSt b).pc = s.pc := rfl
@[simp] theorem State.setSt_stack (b : Byte) : (s.setSt b).stack = s.stack := rfl
@[simp] theorem State.setSt_sp (b : Byte) : (s.setSt b).sp = s.sp := rfl
@[simp] theorem State.setSt_dt (b : Byte) : (s.setSt b).dt = s.dt := rfl
@[simp] theorem State.setSt_st (b : Byte) : (s.setSt b).st = b := rfl
@[simp] theorem State.setSt_fb (b : Byte) : (s.setSt b).fb = s.fb := rfl
@[simp] theorem State.setSt_key (b : Byte) : (s.setSt b).key = s.key := rfl
@[simp] theorem State.setSt_keyDown (b : Byte) (k : Byte) : (s.setSt b).keyDown k = s.keyDown k := rfl
@[simp] theorem State.setSt_halted (b : Byte) : (s.setSt b).halted = s.halted := rfl
@[simp] theorem State.setSt_faultCause (b : Byte) : (s.setSt b).faultCause = s.faultCause := rfl
@[simp] theorem State.setSt_faultPc (b : Byte) : (s.setSt b).faultPc = s.faultPc := rfl
@[simp] theorem State.setSt_faultOpcode (b : Byte) : (s.setSt b).faultOpcode = s.faultOpcode := rfl
@[simp] theorem State.setSt_draws (b : Byte) : (s.setSt b).draws = s.draws := rfl
@[simp] theorem State.setSt_reg (b : Byte) (r : Reg) : (s.setSt b).reg r = s.reg r := rfl
@[simp] theorem State.setSt_load (b : Byte) (a : Nat) : (s.setSt b).load a = s.load a := rfl

/-! ### `setFb` -/

@[simp] theorem State.setFb_mem (fb : Framebuffer) : (s.setFb fb).mem = s.mem := rfl
@[simp] theorem State.setFb_v (fb : Framebuffer) : (s.setFb fb).v = s.v := rfl
@[simp] theorem State.setFb_i (fb : Framebuffer) : (s.setFb fb).i = s.i := rfl
@[simp] theorem State.setFb_pc (fb : Framebuffer) : (s.setFb fb).pc = s.pc := rfl
@[simp] theorem State.setFb_stack (fb : Framebuffer) : (s.setFb fb).stack = s.stack := rfl
@[simp] theorem State.setFb_sp (fb : Framebuffer) : (s.setFb fb).sp = s.sp := rfl
@[simp] theorem State.setFb_dt (fb : Framebuffer) : (s.setFb fb).dt = s.dt := rfl
@[simp] theorem State.setFb_st (fb : Framebuffer) : (s.setFb fb).st = s.st := rfl
@[simp] theorem State.setFb_fb (fb : Framebuffer) : (s.setFb fb).fb = fb := rfl
@[simp] theorem State.setFb_key (fb : Framebuffer) : (s.setFb fb).key = s.key := rfl
@[simp] theorem State.setFb_keyDown (fb : Framebuffer) (k : Byte) : (s.setFb fb).keyDown k = s.keyDown k := rfl
@[simp] theorem State.setFb_halted (fb : Framebuffer) : (s.setFb fb).halted = s.halted := rfl
@[simp] theorem State.setFb_faultCause (fb : Framebuffer) : (s.setFb fb).faultCause = s.faultCause := rfl
@[simp] theorem State.setFb_faultPc (fb : Framebuffer) : (s.setFb fb).faultPc = s.faultPc := rfl
@[simp] theorem State.setFb_faultOpcode (fb : Framebuffer) : (s.setFb fb).faultOpcode = s.faultOpcode := rfl
@[simp] theorem State.setFb_draws (fb : Framebuffer) : (s.setFb fb).draws = s.draws := rfl
@[simp] theorem State.setFb_reg (fb : Framebuffer) (r : Reg) : (s.setFb fb).reg r = s.reg r := rfl
@[simp] theorem State.setFb_load (fb : Framebuffer) (a : Nat) : (s.setFb fb).load a = s.load a := rfl

/-! ### `setKeys` -/

@[simp] theorem State.setKeys_mem (k : Keys) : (s.setKeys k).mem = s.mem := rfl
@[simp] theorem State.setKeys_v (k : Keys) : (s.setKeys k).v = s.v := rfl
@[simp] theorem State.setKeys_i (k : Keys) : (s.setKeys k).i = s.i := rfl
@[simp] theorem State.setKeys_pc (k : Keys) : (s.setKeys k).pc = s.pc := rfl
@[simp] theorem State.setKeys_stack (k : Keys) : (s.setKeys k).stack = s.stack := rfl
@[simp] theorem State.setKeys_sp (k : Keys) : (s.setKeys k).sp = s.sp := rfl
@[simp] theorem State.setKeys_dt (k : Keys) : (s.setKeys k).dt = s.dt := rfl
@[simp] theorem State.setKeys_st (k : Keys) : (s.setKeys k).st = s.st := rfl
@[simp] theorem State.setKeys_fb (k : Keys) : (s.setKeys k).fb = s.fb := rfl
@[simp] theorem State.setKeys_key (k : Keys) : (s.setKeys k).key = k := rfl
@[simp] theorem State.setKeys_halted (k : Keys) : (s.setKeys k).halted = s.halted := rfl
@[simp] theorem State.setKeys_faultCause (k : Keys) : (s.setKeys k).faultCause = s.faultCause := rfl
@[simp] theorem State.setKeys_faultPc (k : Keys) : (s.setKeys k).faultPc = s.faultPc := rfl
@[simp] theorem State.setKeys_faultOpcode (k : Keys) : (s.setKeys k).faultOpcode = s.faultOpcode := rfl
@[simp] theorem State.setKeys_draws (k : Keys) : (s.setKeys k).draws = s.draws := rfl
@[simp] theorem State.setKeys_reg (k : Keys) (r : Reg) : (s.setKeys k).reg r = s.reg r := rfl
@[simp] theorem State.setKeys_load (k : Keys) (a : Nat) : (s.setKeys k).load a = s.load a := rfl

/-! ### `store` -/

@[simp] theorem State.store_mem (a : Nat) (bytes : List Byte) :
    (s.store a bytes).mem = s.mem.writeBytes a bytes := rfl
@[simp] theorem State.store_v (a : Nat) (bytes : List Byte) : (s.store a bytes).v = s.v := rfl
@[simp] theorem State.store_i (a : Nat) (bytes : List Byte) : (s.store a bytes).i = s.i := rfl
@[simp] theorem State.store_pc (a : Nat) (bytes : List Byte) : (s.store a bytes).pc = s.pc := rfl
@[simp] theorem State.store_stack (a : Nat) (bytes : List Byte) : (s.store a bytes).stack = s.stack := rfl
@[simp] theorem State.store_sp (a : Nat) (bytes : List Byte) : (s.store a bytes).sp = s.sp := rfl
@[simp] theorem State.store_dt (a : Nat) (bytes : List Byte) : (s.store a bytes).dt = s.dt := rfl
@[simp] theorem State.store_st (a : Nat) (bytes : List Byte) : (s.store a bytes).st = s.st := rfl
@[simp] theorem State.store_fb (a : Nat) (bytes : List Byte) : (s.store a bytes).fb = s.fb := rfl
@[simp] theorem State.store_key (a : Nat) (bytes : List Byte) : (s.store a bytes).key = s.key := rfl
@[simp] theorem State.store_keyDown (a : Nat) (bytes : List Byte) (k : Byte) :
    (s.store a bytes).keyDown k = s.keyDown k := rfl
@[simp] theorem State.store_halted (a : Nat) (bytes : List Byte) : (s.store a bytes).halted = s.halted := rfl
@[simp] theorem State.store_faultCause (a : Nat) (bytes : List Byte) :
    (s.store a bytes).faultCause = s.faultCause := rfl
@[simp] theorem State.store_faultPc (a : Nat) (bytes : List Byte) : (s.store a bytes).faultPc = s.faultPc := rfl
@[simp] theorem State.store_faultOpcode (a : Nat) (bytes : List Byte) :
    (s.store a bytes).faultOpcode = s.faultOpcode := rfl
@[simp] theorem State.store_draws (a : Nat) (bytes : List Byte) : (s.store a bytes).draws = s.draws := rfl
@[simp] theorem State.store_reg (a : Nat) (bytes : List Byte) (r : Reg) : (s.store a bytes).reg r = s.reg r := rfl

/-! ### `setRegsThrough` -/

@[simp] theorem State.setRegsThrough_mem (x : Reg) (bytes : Nat → Byte) :
    (s.setRegsThrough x bytes).mem = s.mem := rfl
@[simp] theorem State.setRegsThrough_i (x : Reg) (bytes : Nat → Byte) : (s.setRegsThrough x bytes).i = s.i := rfl
@[simp] theorem State.setRegsThrough_pc (x : Reg) (bytes : Nat → Byte) : (s.setRegsThrough x bytes).pc = s.pc := rfl
@[simp] theorem State.setRegsThrough_stack (x : Reg) (bytes : Nat → Byte) :
    (s.setRegsThrough x bytes).stack = s.stack := rfl
@[simp] theorem State.setRegsThrough_sp (x : Reg) (bytes : Nat → Byte) : (s.setRegsThrough x bytes).sp = s.sp := rfl
@[simp] theorem State.setRegsThrough_dt (x : Reg) (bytes : Nat → Byte) : (s.setRegsThrough x bytes).dt = s.dt := rfl
@[simp] theorem State.setRegsThrough_st (x : Reg) (bytes : Nat → Byte) : (s.setRegsThrough x bytes).st = s.st := rfl
@[simp] theorem State.setRegsThrough_fb (x : Reg) (bytes : Nat → Byte) : (s.setRegsThrough x bytes).fb = s.fb := rfl
@[simp] theorem State.setRegsThrough_key (x : Reg) (bytes : Nat → Byte) :
    (s.setRegsThrough x bytes).key = s.key := rfl
@[simp] theorem State.setRegsThrough_keyDown (x : Reg) (bytes : Nat → Byte) (k : Byte) :
    (s.setRegsThrough x bytes).keyDown k = s.keyDown k := rfl
@[simp] theorem State.setRegsThrough_halted (x : Reg) (bytes : Nat → Byte) :
    (s.setRegsThrough x bytes).halted = s.halted := rfl
@[simp] theorem State.setRegsThrough_faultCause (x : Reg) (bytes : Nat → Byte) :
    (s.setRegsThrough x bytes).faultCause = s.faultCause := rfl
@[simp] theorem State.setRegsThrough_faultPc (x : Reg) (bytes : Nat → Byte) :
    (s.setRegsThrough x bytes).faultPc = s.faultPc := rfl
@[simp] theorem State.setRegsThrough_faultOpcode (x : Reg) (bytes : Nat → Byte) :
    (s.setRegsThrough x bytes).faultOpcode = s.faultOpcode := rfl
@[simp] theorem State.setRegsThrough_draws (x : Reg) (bytes : Nat → Byte) :
    (s.setRegsThrough x bytes).draws = s.draws := rfl
@[simp] theorem State.setRegsThrough_load (x : Reg) (bytes : Nat → Byte) (a : Nat) :
    (s.setRegsThrough x bytes).load a = s.load a := rfl

/-! ### `push` -/

@[simp] theorem State.push_mem (w : Word) : (s.push w).mem = s.mem := rfl
@[simp] theorem State.push_v (w : Word) : (s.push w).v = s.v := rfl
@[simp] theorem State.push_i (w : Word) : (s.push w).i = s.i := rfl
@[simp] theorem State.push_pc (w : Word) : (s.push w).pc = s.pc := rfl
@[simp] theorem State.push_stack (w : Word) : (s.push w).stack = s.stack.setIfInBounds s.sp.val w := rfl
@[simp] theorem State.push_sp (w : Word) :
    (s.push w).sp = Fin.ofNat 17 (s.sp.val + 1) := rfl
@[simp] theorem State.push_dt (w : Word) : (s.push w).dt = s.dt := rfl
@[simp] theorem State.push_st (w : Word) : (s.push w).st = s.st := rfl
@[simp] theorem State.push_fb (w : Word) : (s.push w).fb = s.fb := rfl
@[simp] theorem State.push_key (w : Word) : (s.push w).key = s.key := rfl
@[simp] theorem State.push_keyDown (w : Word) (k : Byte) :
    (s.push w).keyDown k = s.keyDown k := rfl
@[simp] theorem State.push_halted (w : Word) : (s.push w).halted = s.halted := rfl
@[simp] theorem State.push_faultCause (w : Word) : (s.push w).faultCause = s.faultCause := rfl
@[simp] theorem State.push_faultPc (w : Word) : (s.push w).faultPc = s.faultPc := rfl
@[simp] theorem State.push_faultOpcode (w : Word) :
    (s.push w).faultOpcode = s.faultOpcode := rfl
@[simp] theorem State.push_draws (w : Word) : (s.push w).draws = s.draws := rfl
@[simp] theorem State.push_reg (w : Word) (r : Reg) : (s.push w).reg r = s.reg r := rfl
@[simp] theorem State.push_load (w : Word) (a : Nat) : (s.push w).load a = s.load a := rfl

/-! ### `drop` -/

@[simp] theorem State.drop_mem : (s.drop).mem = s.mem := rfl
@[simp] theorem State.drop_v : (s.drop).v = s.v := rfl
@[simp] theorem State.drop_i : (s.drop).i = s.i := rfl
@[simp] theorem State.drop_pc : (s.drop).pc = s.pc := rfl
@[simp] theorem State.drop_stack : (s.drop).stack = s.stack := rfl
@[simp] theorem State.drop_sp : (s.drop).sp = Fin.ofNat 17 (s.sp.val - 1) := rfl
@[simp] theorem State.drop_dt : (s.drop).dt = s.dt := rfl
@[simp] theorem State.drop_st : (s.drop).st = s.st := rfl
@[simp] theorem State.drop_fb : (s.drop).fb = s.fb := rfl
@[simp] theorem State.drop_key : (s.drop).key = s.key := rfl
@[simp] theorem State.drop_keyDown (k : Byte) : (s.drop).keyDown k = s.keyDown k := rfl
@[simp] theorem State.drop_halted : (s.drop).halted = s.halted := rfl
@[simp] theorem State.drop_faultCause : (s.drop).faultCause = s.faultCause := rfl
@[simp] theorem State.drop_faultPc : (s.drop).faultPc = s.faultPc := rfl
@[simp] theorem State.drop_faultOpcode : (s.drop).faultOpcode = s.faultOpcode := rfl
@[simp] theorem State.drop_draws : (s.drop).draws = s.draws := rfl
@[simp] theorem State.drop_reg (r : Reg) : (s.drop).reg r = s.reg r := rfl
@[simp] theorem State.drop_load (a : Nat) : (s.drop).load a = s.load a := rfl

/-! ### `raise` -/

@[simp] theorem State.raise_mem (f : Fault) (a op : Word) : (s.raise f a op).mem = s.mem := rfl
@[simp] theorem State.raise_v (f : Fault) (a op : Word) : (s.raise f a op).v = s.v := rfl
@[simp] theorem State.raise_i (f : Fault) (a op : Word) : (s.raise f a op).i = s.i := rfl
@[simp] theorem State.raise_pc (f : Fault) (a op : Word) : (s.raise f a op).pc = s.pc := rfl
@[simp] theorem State.raise_stack (f : Fault) (a op : Word) : (s.raise f a op).stack = s.stack := rfl
@[simp] theorem State.raise_sp (f : Fault) (a op : Word) : (s.raise f a op).sp = s.sp := rfl
@[simp] theorem State.raise_dt (f : Fault) (a op : Word) : (s.raise f a op).dt = s.dt := rfl
@[simp] theorem State.raise_st (f : Fault) (a op : Word) : (s.raise f a op).st = s.st := rfl
@[simp] theorem State.raise_fb (f : Fault) (a op : Word) : (s.raise f a op).fb = s.fb := rfl
@[simp] theorem State.raise_key (f : Fault) (a op : Word) : (s.raise f a op).key = s.key := rfl
@[simp] theorem State.raise_keyDown (f : Fault) (a op : Word) (k : Byte) :
    (s.raise f a op).keyDown k = s.keyDown k := rfl
@[simp] theorem State.raise_halted (f : Fault) (a op : Word) : (s.raise f a op).halted = true := rfl
@[simp] theorem State.raise_faultCause (f : Fault) (a op : Word) : (s.raise f a op).faultCause = f.code := rfl
@[simp] theorem State.raise_faultPc (f : Fault) (a op : Word) : (s.raise f a op).faultPc = a := rfl
@[simp] theorem State.raise_faultOpcode (f : Fault) (a op : Word) : (s.raise f a op).faultOpcode = op := rfl
@[simp] theorem State.raise_draws (f : Fault) (a op : Word) : (s.raise f a op).draws = s.draws := rfl
@[simp] theorem State.raise_reg (f : Fault) (a op : Word) (r : Reg) : (s.raise f a op).reg r = s.reg r := rfl
@[simp] theorem State.raise_load (f : Fault) (a op : Word) (k : Nat) : (s.raise f a op).load k = s.load k := rfl

/-! ### `fetched` -/

@[simp] theorem State.fetched_mem : (s.fetched).mem = s.mem := rfl
@[simp] theorem State.fetched_v : (s.fetched).v = s.v := rfl
@[simp] theorem State.fetched_i : (s.fetched).i = s.i := rfl
@[simp] theorem State.fetched_pc : (s.fetched).pc = s.pc + 2 := rfl
@[simp] theorem State.fetched_stack : (s.fetched).stack = s.stack := rfl
@[simp] theorem State.fetched_sp : (s.fetched).sp = s.sp := rfl
@[simp] theorem State.fetched_dt : (s.fetched).dt = s.dt := rfl
@[simp] theorem State.fetched_st : (s.fetched).st = s.st := rfl
@[simp] theorem State.fetched_fb : (s.fetched).fb = s.fb := rfl
@[simp] theorem State.fetched_key : (s.fetched).key = s.key := rfl
@[simp] theorem State.fetched_keyDown (k : Byte) : (s.fetched).keyDown k = s.keyDown k := rfl
@[simp] theorem State.fetched_halted : (s.fetched).halted = s.halted := rfl
@[simp] theorem State.fetched_faultCause : (s.fetched).faultCause = s.faultCause := rfl
@[simp] theorem State.fetched_faultPc : (s.fetched).faultPc = s.faultPc := rfl
@[simp] theorem State.fetched_faultOpcode : (s.fetched).faultOpcode = s.faultOpcode := rfl
@[simp] theorem State.fetched_draws : (s.fetched).draws = s.draws := rfl
@[simp] theorem State.fetched_reg (r : Reg) : (s.fetched).reg r = s.reg r := rfl
@[simp] theorem State.fetched_load (a : Nat) : (s.fetched).load a = s.load a := rfl

/-! ### `ticked` -/

@[simp] theorem State.ticked_mem : (s.ticked).mem = s.mem := rfl
@[simp] theorem State.ticked_v : (s.ticked).v = s.v := rfl
@[simp] theorem State.ticked_i : (s.ticked).i = s.i := rfl
@[simp] theorem State.ticked_pc : (s.ticked).pc = s.pc := rfl
@[simp] theorem State.ticked_stack : (s.ticked).stack = s.stack := rfl
@[simp] theorem State.ticked_sp : (s.ticked).sp = s.sp := rfl
@[simp] theorem State.ticked_dt : (s.ticked).dt = countDown s.dt := rfl
@[simp] theorem State.ticked_st : (s.ticked).st = countDown s.st := rfl
@[simp] theorem State.ticked_fb : (s.ticked).fb = s.fb := rfl
@[simp] theorem State.ticked_key : (s.ticked).key = s.key := rfl
@[simp] theorem State.ticked_keyDown (k : Byte) : (s.ticked).keyDown k = s.keyDown k := rfl
@[simp] theorem State.ticked_halted : (s.ticked).halted = s.halted := rfl
@[simp] theorem State.ticked_faultCause : (s.ticked).faultCause = s.faultCause := rfl
@[simp] theorem State.ticked_faultPc : (s.ticked).faultPc = s.faultPc := rfl
@[simp] theorem State.ticked_faultOpcode : (s.ticked).faultOpcode = s.faultOpcode := rfl
@[simp] theorem State.ticked_draws : (s.ticked).draws = s.draws := rfl
@[simp] theorem State.ticked_reg (r : Reg) : (s.ticked).reg r = s.reg r := rfl
@[simp] theorem State.ticked_load (a : Nat) : (s.ticked).load a = s.load a := rfl

/-! ### `drawRandom`, which writes the register and uses up one draw -/

@[simp] theorem drawRandom_mem (rnd : Byte) (x : Reg) (kk : Byte) : (drawRandom rnd x kk s).mem = s.mem := rfl
@[simp] theorem drawRandom_v (rnd : Byte) (x : Reg) (kk : Byte) :
    (drawRandom rnd x kk s).v = s.v.set x.toNat (rnd &&& kk) x.isLt := rfl
@[simp] theorem drawRandom_i (rnd : Byte) (x : Reg) (kk : Byte) : (drawRandom rnd x kk s).i = s.i := rfl
@[simp] theorem drawRandom_pc (rnd : Byte) (x : Reg) (kk : Byte) : (drawRandom rnd x kk s).pc = s.pc := rfl
@[simp] theorem drawRandom_stack (rnd : Byte) (x : Reg) (kk : Byte) : (drawRandom rnd x kk s).stack = s.stack := rfl
@[simp] theorem drawRandom_sp (rnd : Byte) (x : Reg) (kk : Byte) : (drawRandom rnd x kk s).sp = s.sp := rfl
@[simp] theorem drawRandom_dt (rnd : Byte) (x : Reg) (kk : Byte) : (drawRandom rnd x kk s).dt = s.dt := rfl
@[simp] theorem drawRandom_st (rnd : Byte) (x : Reg) (kk : Byte) : (drawRandom rnd x kk s).st = s.st := rfl
@[simp] theorem drawRandom_fb (rnd : Byte) (x : Reg) (kk : Byte) : (drawRandom rnd x kk s).fb = s.fb := rfl
@[simp] theorem drawRandom_key (rnd : Byte) (x : Reg) (kk : Byte) : (drawRandom rnd x kk s).key = s.key := rfl
@[simp] theorem drawRandom_keyDown (rnd : Byte) (x : Reg) (kk : Byte) (k : Byte) :
    (drawRandom rnd x kk s).keyDown k = s.keyDown k := rfl
@[simp] theorem drawRandom_halted (rnd : Byte) (x : Reg) (kk : Byte) :
    (drawRandom rnd x kk s).halted = s.halted := rfl
@[simp] theorem drawRandom_faultCause (rnd : Byte) (x : Reg) (kk : Byte) :
    (drawRandom rnd x kk s).faultCause = s.faultCause := rfl
@[simp] theorem drawRandom_faultPc (rnd : Byte) (x : Reg) (kk : Byte) :
    (drawRandom rnd x kk s).faultPc = s.faultPc := rfl
@[simp] theorem drawRandom_faultOpcode (rnd : Byte) (x : Reg) (kk : Byte) :
    (drawRandom rnd x kk s).faultOpcode = s.faultOpcode := rfl
@[simp] theorem drawRandom_draws (rnd : Byte) (x : Reg) (kk : Byte) :
    (drawRandom rnd x kk s).draws = s.draws + 1 := rfl
@[simp] theorem drawRandom_reg (rnd : Byte) (x : Reg) (kk : Byte) (r : Reg) :
    (drawRandom rnd x kk s).reg r = (s.setReg x (rnd &&& kk)).reg r := rfl
@[simp] theorem drawRandom_load (rnd : Byte) (x : Reg) (kk : Byte) (a : Nat) :
    (drawRandom rnd x kk s).load a = s.load a := rfl

/-! ### `skipIf`, which may write PC alone -/

@[simp] theorem State.skipIf_mem (c : Bool) : (s.skipIf c).mem = s.mem := by cases c <;> rfl
@[simp] theorem State.skipIf_v (c : Bool) : (s.skipIf c).v = s.v := by cases c <;> rfl
@[simp] theorem State.skipIf_i (c : Bool) : (s.skipIf c).i = s.i := by cases c <;> rfl
@[simp] theorem State.skipIf_pc (c : Bool) : (s.skipIf c).pc = if c then s.pc + 2 else s.pc := by
  cases c <;> rfl
@[simp] theorem State.skipIf_stack (c : Bool) : (s.skipIf c).stack = s.stack := by cases c <;> rfl
@[simp] theorem State.skipIf_sp (c : Bool) : (s.skipIf c).sp = s.sp := by cases c <;> rfl
@[simp] theorem State.skipIf_dt (c : Bool) : (s.skipIf c).dt = s.dt := by cases c <;> rfl
@[simp] theorem State.skipIf_st (c : Bool) : (s.skipIf c).st = s.st := by cases c <;> rfl
@[simp] theorem State.skipIf_fb (c : Bool) : (s.skipIf c).fb = s.fb := by cases c <;> rfl
@[simp] theorem State.skipIf_key (c : Bool) : (s.skipIf c).key = s.key := by cases c <;> rfl
@[simp] theorem State.skipIf_keyDown (c : Bool) (k : Byte) :
    (s.skipIf c).keyDown k = s.keyDown k := by cases c <;> rfl
@[simp] theorem State.skipIf_halted (c : Bool) : (s.skipIf c).halted = s.halted := by cases c <;> rfl
@[simp] theorem State.skipIf_faultCause (c : Bool) : (s.skipIf c).faultCause = s.faultCause := by cases c <;> rfl
@[simp] theorem State.skipIf_faultPc (c : Bool) : (s.skipIf c).faultPc = s.faultPc := by cases c <;> rfl
@[simp] theorem State.skipIf_faultOpcode (c : Bool) : (s.skipIf c).faultOpcode = s.faultOpcode := by cases c <;> rfl
@[simp] theorem State.skipIf_draws (c : Bool) : (s.skipIf c).draws = s.draws := by cases c <;> rfl
@[simp] theorem State.skipIf_reg (c : Bool) (r : Reg) : (s.skipIf c).reg r = s.reg r := by cases c <;> rfl
@[simp] theorem State.skipIf_load (c : Bool) (a : Nat) : (s.skipIf c).load a = s.load a := by cases c <;> rfl

/-! ### `setResultAndFlag`, which writes registers alone -/

@[simp] theorem State.setResultAndFlag_mem (x : Reg) (result flag : Byte) :
    (s.setResultAndFlag x result flag).mem = s.mem := rfl
@[simp] theorem State.setResultAndFlag_i (x : Reg) (result flag : Byte) :
    (s.setResultAndFlag x result flag).i = s.i := rfl
@[simp] theorem State.setResultAndFlag_pc (x : Reg) (result flag : Byte) :
    (s.setResultAndFlag x result flag).pc = s.pc := rfl
@[simp] theorem State.setResultAndFlag_stack (x : Reg) (result flag : Byte) :
    (s.setResultAndFlag x result flag).stack = s.stack := rfl
@[simp] theorem State.setResultAndFlag_sp (x : Reg) (result flag : Byte) :
    (s.setResultAndFlag x result flag).sp = s.sp := rfl
@[simp] theorem State.setResultAndFlag_dt (x : Reg) (result flag : Byte) :
    (s.setResultAndFlag x result flag).dt = s.dt := rfl
@[simp] theorem State.setResultAndFlag_st (x : Reg) (result flag : Byte) :
    (s.setResultAndFlag x result flag).st = s.st := rfl
@[simp] theorem State.setResultAndFlag_fb (x : Reg) (result flag : Byte) :
    (s.setResultAndFlag x result flag).fb = s.fb := rfl
@[simp] theorem State.setResultAndFlag_key (x : Reg) (result flag : Byte) :
    (s.setResultAndFlag x result flag).key = s.key := rfl
@[simp] theorem State.setResultAndFlag_keyDown (x : Reg) (result flag : Byte) (k : Byte) :
    (s.setResultAndFlag x result flag).keyDown k = s.keyDown k := rfl
@[simp] theorem State.setResultAndFlag_halted (x : Reg) (result flag : Byte) :
    (s.setResultAndFlag x result flag).halted = s.halted := rfl
@[simp] theorem State.setResultAndFlag_faultCause (x : Reg) (result flag : Byte) :
    (s.setResultAndFlag x result flag).faultCause = s.faultCause := rfl
@[simp] theorem State.setResultAndFlag_faultPc (x : Reg) (result flag : Byte) :
    (s.setResultAndFlag x result flag).faultPc = s.faultPc := rfl
@[simp] theorem State.setResultAndFlag_faultOpcode (x : Reg) (result flag : Byte) :
    (s.setResultAndFlag x result flag).faultOpcode = s.faultOpcode := rfl
@[simp] theorem State.setResultAndFlag_draws (x : Reg) (result flag : Byte) :
    (s.setResultAndFlag x result flag).draws = s.draws := rfl
@[simp] theorem State.setResultAndFlag_load (x : Reg) (result flag : Byte) (a : Nat) :
    (s.setResultAndFlag x result flag).load a = s.load a := rfl

/-! ### Reading a register after a write -/

/-- A register read gives the value written to it, and every other register its old value. -/
theorem State.setReg_reg (x : Reg) (b : Byte) (r : Reg) :
    (s.setReg x b).reg r = if r = x then b else s.reg r := by
  by_cases h : r = x
  · subst h; simp [State.reg, State.setReg]
  · have : x.toNat ≠ r.toNat := fun e => h (BitVec.eq_of_toNat_eq e.symm)
    simp [State.reg, State.setReg, h, this]

@[simp] theorem State.setReg_reg_same (x : Reg) (b : Byte) : (s.setReg x b).reg x = b := by
  simp [State.setReg_reg]

theorem State.setReg_reg_other {x r : Reg} (b : Byte) (h : r ≠ x) : (s.setReg x b).reg r = s.reg r := by
  simp [State.setReg_reg, h]

/-- The result and the flag: VF ends as the flag even where it is the destination (40_alu.md R100). -/
theorem State.setResultAndFlag_reg (x : Reg) (result flag : Byte) (r : Reg) :
    (s.setResultAndFlag x result flag).reg r =
      if r = vf then flag else if r = x then result else s.reg r := by
  simp only [State.setResultAndFlag, State.setReg_reg]

/-- The registers V0 to Vx take the given bytes, the others stay (41_transfer.md R136). -/
theorem State.setRegsThrough_reg (x : Reg) (bytes : Nat → Byte) (r : Reg) :
    (s.setRegsThrough x bytes).reg r = if r.toNat ≤ x.toNat then bytes r.toNat else s.reg r := by
  simp [State.reg, State.setRegsThrough]

/-! ### The stack pointer after a push and a pop (10_state.md R29) -/

theorem State.push_sp_val (w : Word) (h : s.sp.val < 16) : (s.push w).sp.val = s.sp.val + 1 := by
  simp only [State.push_sp, Fin.val_ofNat]
  omega

theorem State.drop_sp_val : s.drop.sp.val = s.sp.val - 1 := by
  have := s.sp.isLt
  simp only [State.drop_sp, Fin.val_ofNat]
  omega

end Sys2Proof.Machine
end

