-- ==== Sys2Proof/Laws/Step.lean ====
section
/-! SUPPORT. Everything a STEP can do, and what a fault taken in the execute stage leaves. -/

namespace Sys2Proof.Machine

/-- A fault raised in the execute stage is taken: the next state is fault entry's (60_exceptions.md R203, R206). -/
theorem raiseIn_takesFault (f : Fault) (i : Instr) (s : State) :
    ∃ t, raiseIn f i s = .next t ∧ TakesFault f i s t := by
  refine ⟨_, rfl, rfl, rfl, rfl, rfl, fun p hp => ?_⟩
  cases p <;> simp_all [SamePart]

/-- A register write as a frame (10_state.md R22). -/
theorem State.setReg_writesReg (s : State) (x : Reg) (b : Byte) : WritesReg x b s (s.setReg x b) := by
  refine ⟨by simp, fun r hr => State.setReg_reg_other s b hr, fun p hp => ?_⟩
  cases p <;> simp_all [SamePart]

/-- A result and flag write as a frame (40_alu.md R100). -/
theorem State.setResultAndFlag_writes (s : State) (x : Reg) (result flag : Byte) :
    WritesResultAndFlag x result.toNat flag.toNat s (s.setResultAndFlag x result flag) := by
  refine ⟨fun h => ?_, ?_, fun r h1 h2 => ?_, fun p hp => ?_⟩
  · rw [State.setResultAndFlag_reg, if_neg h, if_pos rfl]
  · rw [State.setResultAndFlag_reg, if_pos rfl]
  · rw [State.setResultAndFlag_reg, if_neg h2, if_neg h1]
  · cases p <;> simp_all [SamePart]

/-- A flag as a number (10_state.md R23). -/
theorem toNat_flagByte (b : Bool) : (flagByte b).toNat = if b then 1 else 0 := by cases b <;> rfl

/-- A timer's decrement as a number: it stops at 0 (60_exceptions.md R212, R213). -/
theorem toNat_countDown (b : Byte) : (countDown b).toNat = b.toNat - 1 := by
  unfold countDown
  split
  · subst_vars; rfl
  · next h =>
    have : b.toNat ≠ 0 := fun e => h (BitVec.eq_of_toNat_eq (by simpa using e))
    simp [BitVec.toNat_sub]
    omega

/-- The four cases of a cycle that answers a next state (60_exceptions.md R224). -/
theorem cycle_cases {run : Instr → State → Host.Outcome State Fault Refusal} {s t : State}
    (h : cycle run s = .next t) :
    (s.halted = true ∧ t = s) ∨
    (s.halted = false ∧ 0xFFE < s.pc.toNat ∧ t = s.raise .fetchError s.pc 0) ∨
    (s.halted = false ∧ s.pc.toNat ≤ 0xFFE ∧ decode (s.wordAt s.pc.toNat) = none ∧
      t = s.fetched.raise .unimplementedOpcode s.pc (s.wordAt s.pc.toNat)) ∨
    (s.halted = false ∧ s.pc.toNat ≤ 0xFFE ∧
      ∃ i, decode (s.wordAt s.pc.toNat) = some i ∧ run i s.fetched = .next t) := by
  unfold cycle State.fetch at h
  by_cases hh : s.halted = true
  · simp only [hh, if_true, Host.Outcome.next.injEq] at h
    exact .inl ⟨hh, h.symm⟩
  have hf : s.halted = false := by simpa using hh
  simp only [hf, Bool.false_eq_true, if_false] at h
  by_cases hp : 0xFFE < s.pc.toNat
  · simp only [hp, if_true, Host.Outcome.next.injEq] at h
    exact .inr (.inl ⟨hf, hp, h.symm⟩)
  simp only [hp, if_false] at h
  cases hd : decode (s.wordAt s.pc.toNat) with
  | none =>
    simp only [hd, Host.Outcome.next.injEq] at h
    exact .inr (.inr (.inl ⟨hf, by omega, rfl, h.symm⟩))
  | some i =>
    simp only [hd] at h
    exact .inr (.inr (.inr ⟨hf, by omega, i, rfl, h⟩))

/-- What the last case of a cycle runs (60_exceptions.md R224). -/
theorem cycle_runs {run : Instr → State → Host.Outcome State Fault Refusal} {s : State} {i : Instr}
    (hh : s.halted = false) (hp : s.pc.toNat ≤ 0xFFE) (hd : decode (s.wordAt s.pc.toNat) = some i) :
    cycle run s = run i s.fetched := by
  have hp' : ¬ 0xFFE < s.pc.toNat := by omega
  simp [cycle, State.fetch, hh, hp', hd]

/-- A run of one more step is the step and then the run. -/
theorem core_run_next {s t : State} (n : Nat) (h : step s = .next t) :
    Sys2Proof.core.run (n + 1) s = Sys2Proof.core.run n t := by
  have h' : Sys2Proof.core.step s = .next t := h
  simp only [Host.Core.run, h']

/-- A byte that names a key asks for that key (44_keys_timers.md R181). -/
theorem State.keyDown_eq (s : State) (b : Byte) (k : Nat) (hk : k < 16) (h : b.toNat = k) :
    s.keyDown b = s.key[k] := by
  subst h
  simp [State.keyDown, hk]

/-- The pressed key Fx0A finds: the lowest, or none when no key is pressed (44_keys_timers.md R184). -/
theorem Keys.lowest_some {k : Keys} {j : Nat} (h : Keys.lowest k = some j) :
    ∃ hj : j < 16, k[j] = true ∧ ∀ l, (hl : l < j) → k[l] = false := by
  obtain ⟨hj, hk, hl⟩ := List.findIdx?_eq_some_iff_getElem.1 h
  refine ⟨by simpa using hj, by simpa using hk, fun l lt => ?_⟩
  simpa using hl l lt

/-- Fx0A finds no key exactly when none is pressed (44_keys_timers.md R184). -/
theorem Keys.lowest_none {k : Keys} : Keys.lowest k = none ↔ ∀ j, (h : j < 16) → k[j] = false := by
  rw [Keys.lowest, List.findIdx?_eq_none_iff]
  constructor
  · intro h j hj
    exact h k[j] (by simp)
  · intro h p hp
    obtain ⟨j, hj, rfl⟩ := List.getElem_of_mem hp
    simpa using h j (by simpa using hj)

/-- A pressed key with none below it is the one Fx0A finds (44_keys_timers.md R184). -/
theorem Keys.lowest_eq {key : Keys} {k : Nat} (h : k < 16) (hk : key[k] = true)
    (hl : ∀ j, (hj : j < k) → key[j] = false) : Keys.lowest key = some k := by
  cases e : Keys.lowest key with
  | none => have := Keys.lowest_none.1 e k h; simp [hk] at this
  | some j =>
    obtain ⟨hj, h1, h2⟩ := Keys.lowest_some e
    rcases Nat.lt_trichotomy j k with l | l | l
    · simp [hl j l] at h1
    · rw [l]
    · simp [h2 k l] at hk

/-- `V0` to `Vx` as the list LD [I], Vx stores: its length (41_transfer.md R135). -/
theorem State.regsThrough_length (s : State) (x : Reg) : (s.regsThrough x).length = x.toNat + 1 := by
  have := x.isLt
  simp only [State.regsThrough, List.length_take, Vector.length_toList]
  omega

/-- `V0` to `Vx` as the list LD [I], Vx stores: its entries (41_transfer.md R135). -/
theorem State.regsThrough_get (s : State) (x r : Reg) (h : r.toNat ≤ x.toNat) :
    (s.regsThrough x)[r.toNat]? = some (s.reg r) := by
  have := r.isLt
  have h' : r.toNat < x.toNat + 1 := by omega
  simp [State.regsThrough, State.reg, h']

end Sys2Proof.Machine
end

