-- ==== Sys2Proof/Tests/Slice0.lean ====
section
/-! SUPPORT. The tests of the model: words written out from the encodings, illegal words refused, one step on small
states with results from spec/95_test_vectors.md, and a witness for the hypotheses of every statement. -/

namespace Sys2Proof.Tests

open Sys2Proof.Machine

/-! ### Helpers -/

/-- One step of `s` on the word `w` placed at its PC; whether the next state passes a check. -/
def ran (s : State) (w : Nat) (check : State → Bool) : Bool :=
  match step (s.withFetchWord 16 w) with
  | .next t => check t
  | .fault _ => false
  | .refused _ => false

/-- One host command; whether the next state and the response pass a check. -/
def answered (cmd : Command) (s : State) (check : State → Response → Bool) : Bool :=
  match applyCommand Config.spec cmd s with
  | .next (t, r) => check t r
  | .fault _ => false
  | .refused _ => false

/-- The reset state with some registers written. -/
def regs (values : List (Reg × Byte)) : State :=
  values.foldl (fun s p => s.setReg p.1 p.2) State.reset

/-- The reset state with I at an address and some bytes of memory from there on. -/
def memory (i : Word) (bytes : List Byte) : State := (State.reset.setI i).store i.toNat bytes

/-- The reset state with one key pressed. -/
def pressed (k : Nat) (h : k < 16) : State := State.reset.setKeys (State.reset.key.set k true h)

/-- The reset state with the stack pointer at a depth. -/
def depth (n : Fin 17) : State := { State.reset with sp := n }

/-- The reset state halted by STACK_OVERFLOW. -/
def stopped : State := State.reset.raise .stackOverflow 0x200 0x2200

/-- Whether a state is halted with a cause, an address and a word recorded. -/
def halts (t : State) (cause : Byte) (pc op : Word) : Bool :=
  t.halted && t.faultCause == cause && t.faultPc == pc && t.faultOpcode == op

/-! ### Decoding: words written out from 30_encoding.md R86, one for every row of the table -/

theorem test_decode_system : decode 0b0000000000000000 = some .nop ∧ decode 0b0000000011100000 = some .cls ∧
    decode 0b0000000011101110 = some .ret := by decide

theorem test_decode_jumps : decode 0b0001001000110100 = some (.jp 0x234) ∧
    decode 0b0010111111111110 = some (.call 0xFFE) ∧ decode 0b1011001100000000 = some (.jpV0 0x300) ∧
    decode 0b1010001011110000 = some (.ldI 0x2F0) := by decide

theorem test_decode_immediates : decode 0b0011000011111110 = some (.seByte 0x0 0xFE) ∧
    decode 0b0100000100000101 = some (.sneByte 0x1 0x05) ∧ decode 0b0110101000101111 = some (.ldByte 0xA 0x2F) ∧
    decode 0b0111001100000010 = some (.addByte 0x3 0x02) ∧ decode 0b1100010010110111 = some (.rnd 0x4 0xB7) := by
  decide

theorem test_decode_registers : decode 0b0101001000110000 = some (.seReg 0x2 0x3) ∧
    decode 0b1001001000110000 = some (.sneReg 0x2 0x3) ∧ decode 0b1000111100010000 = some (.ldReg 0xF 0x1) ∧
    decode 0b1000000100100001 = some (.or 0x1 0x2) ∧ decode 0b1000000100100010 = some (.and 0x1 0x2) ∧
    decode 0b1000000100100011 = some (.xor 0x1 0x2) := by decide

theorem test_decode_flags : decode 0b1000000011110100 = some (.addReg 0x0 0xF) ∧
    decode 0b1000000100100101 = some (.sub 0x1 0x2) ∧ decode 0b1000001000110110 = some (.shr 0x2) ∧
    decode 0b1000010100110111 = some (.subn 0x5 0x3) ∧ decode 0b1000001000001110 = some (.shl 0x2) := by decide

theorem test_decode_draw_and_keys : decode 0b1101000110100101 = some (.drw 0x1 0xA 0x5) ∧
    decode 0b1110011110011110 = some (.skp 0x7) ∧ decode 0b1110001110100001 = some (.sknp 0x3) ∧
    decode 0b1111001100001010 = some (.ldKey 0x3) := by decide

theorem test_decode_timers : decode 0b1111000100000111 = some (.ldFromDt 0x1) ∧
    decode 0b1111000000010101 = some (.ldToDt 0x0) ∧ decode 0b1111011000011000 = some (.ldToSt 0x6) := by decide

theorem test_decode_transfer : decode 0b1111010100011110 = some (.addI 0x5) ∧
    decode 0b1111100000101001 = some (.ldFont 0x8) ∧ decode 0b1111000000110011 = some (.ldBcd 0x0) ∧
    decode 0b1111110001010101 = some (.storeRegs 0xC) ∧ decode 0b1111001001100101 = some (.loadRegs 0x2) := by decide

/-- Bytes in memory order, high byte first, and the bytes after them (20_memory.md R54). -/
theorem test_decode_bytes : decodeBytes [0xA2, 0xF0, 0x55] = .ok (.ldI 0x2F0, [0x55]) ∧
    decodeBytes [0x00, 0x01] = .error (.unimplementedOpcode 0x0001) ∧ decodeBytes [0x12] = .error .tooShort := by
  exact ⟨rfl, rfl, rfl⟩

theorem test_decode_table_word : decodeTableWord 16 0xA2F0 = some (.ldI 0x2F0) ∧
    decodeTableWord 16 0x00EE = some .ret ∧ decodeTableWord 16 0x5121 = none := by decide

/-! ### Ill-formed words refused, one row of 30_encoding.md R87 at a time (V1.7), and legal ones (V1.8) -/

theorem test_illegal_system : legalWord 0x0001 = false ∧ legalWord 0x00C1 = false ∧ legalWord 0x00FE = false ∧
    legalWord 0x0123 = false := by decide

theorem test_illegal_5_and_9 : legalWord 0x5121 = false ∧ legalWord 0x9121 = false := by decide

theorem test_illegal_8 : legalWord 0x8008 = false ∧ legalWord 0x800D = false ∧ legalWord 0x800F = false := by decide

theorem test_illegal_E : legalWord 0xE000 = false ∧ legalWord 0xE09F = false := by decide

theorem test_illegal_F : legalWord 0xF000 = false ∧ legalWord 0xF030 = false ∧ legalWord 0xF075 = false := by decide

theorem test_legal_words : [0x0000, 0x00E0, 0x00EE, 0x5120, 0x8000, 0x800E, 0x9120, 0xE09E, 0xE0A1, 0xF065].all
    (fun w => legalWord (BitVec.ofNat 16 w)) = true := by decide

/-! ### Fetch and faults (vectors V1) -/

/-- V1.1: the last word that can be fetched. -/
theorem test_fetch_last_word : ran (State.reset.setPc 0xFFE) 0x1200 (fun t => t.pc == 0x200 && !t.halted) = true := by
  decide

/-- V1.2: FETCH_ERROR leaves PC and records no word. -/
theorem test_fetch_error : ran (State.reset.setPc 0xFFF) 0 (fun t => halts t 1 0xFFF 0 && t.pc == 0xFFF) = true := by
  decide

/-- V1.4: an odd PC. -/
theorem test_fetch_odd : ran (State.reset.setPc 0x201) 0x602A (fun t => t.reg 0 == 0x2A && t.pc == 0x203) = true := by
  decide

/-- V1.5: a word that is no instruction; PC stays advanced. -/
theorem test_unimplemented : ran State.reset 0x0001 (fun t => halts t 2 0x200 0x0001 && t.pc == 0x202) = true := by
  decide

/-- V1.9, V1.10: a halted core. -/
theorem test_halted_step : answered (.step 0) stopped (fun t r => t == stopped && r == .fault 3) = true := by decide

theorem test_halted_tick : answered .tickTimers (stopped.setSt 1) (fun t r => t.st == 1 && r == .fault 3) = true := by
  decide

/-! ### Arithmetic and logic (vectors L1.3 to L1.6, V2) -/

theorem test_ldByte : ran State.reset 0x6A2F (fun t => t.reg 0xA == 0x2F && t.pc == 0x202) = true := by decide

theorem test_addByte_wraps : ran (regs [(3, 0xFF)]) 0x7302 (fun t => t.reg 3 == 1 && t.reg 0xF == 0) = true := by
  decide

theorem test_addByte_vf : ran (regs [(0xF, 0xFF)]) 0x7F01 (fun t => t.reg 0xF == 0) = true := by decide

theorem test_ldReg : ran (regs [(1, 0x42)]) 0x8010 (fun t => t.reg 0 == 0x42) = true := by decide

theorem test_or : ran (regs [(0, 0x0F), (1, 0xF0), (0xF, 5)]) 0x8011
    (fun t => t.reg 0 == 0xFF && t.reg 0xF == 5) = true := by decide

theorem test_and : ran (regs [(0, 0x3C), (1, 0x0F)]) 0x8012 (fun t => t.reg 0 == 0x0C) = true := by decide

theorem test_xor : ran (regs [(0, 0xFF), (1, 0x0F)]) 0x8013 (fun t => t.reg 0 == 0xF0) = true := by decide

theorem test_addReg_carry : ran (regs [(0, 0xFF), (1, 1)]) 0x8014
    (fun t => t.reg 0 == 0 && t.reg 0xF == 1) = true := by decide

theorem test_addReg_into_vf : ran (regs [(0, 0x80), (0xF, 0x80)]) 0x8F04 (fun t => t.reg 0xF == 1) = true := by decide

theorem test_sub_borrow : ran (regs [(0, 1), (1, 2)]) 0x8015
    (fun t => t.reg 0 == 0xFF && t.reg 0xF == 0) = true := by decide

theorem test_sub_equal : ran (regs [(0, 7), (1, 7)]) 0x8015 (fun t => t.reg 0 == 0 && t.reg 0xF == 1) = true := by
  decide

theorem test_shr : ran (regs [(2, 5), (3, 0xFF)]) 0x8236 (fun t => t.reg 2 == 2 && t.reg 0xF == 1) = true := by decide

theorem test_shr_vf : ran (regs [(0xF, 5)]) 0x8F06 (fun t => t.reg 0xF == 1) = true := by decide

theorem test_subn_borrow : ran (regs [(0, 2), (1, 1)]) 0x8017
    (fun t => t.reg 0 == 0xFF && t.reg 0xF == 0) = true := by decide

theorem test_subn_into_vf : ran (regs [(0, 5), (0xF, 2)]) 0x8F07 (fun t => t.reg 0xF == 1) = true := by decide

theorem test_shl : ran (regs [(2, 0x81)]) 0x820E (fun t => t.reg 2 == 2 && t.reg 0xF == 1) = true := by decide

theorem test_shl_vf : ran (regs [(0xF, 0x40)]) 0x8FFE (fun t => t.reg 0xF == 0) = true := by decide

/-- V2.31: the draw under the mask. -/
theorem test_rnd : answered (.step 0xB7) (State.reset.withFetchWord 16 0xC00F) (fun t _ => t.reg 0 == 7) = true := by
  decide

/-! ### Index and transfer (vectors L1.8, L1.9, V3) -/

theorem test_ldI : ran State.reset 0xA2F0 (fun t => t.i == 0x2F0) = true := by decide

theorem test_addI : ran (memory 0x0FFF []) 0xF01E (fun t => t.i == 0x0FFF) = true ∧
    ran ((regs [(0, 1)]).setI 0x0FFF) 0xF01E (fun t => t.i == 0x1000 && t.reg 0xF == 0) = true := by decide

theorem test_addI_wraps : ran ((regs [(0, 1)]).setI 0xFFFF) 0xF01E (fun t => t.i == 0) = true := by decide

theorem test_ldFont : ran (regs [(0, 0xA)]) 0xF029 (fun t => t.i == 0x032) = true := by decide

theorem test_ldFont_whole_byte : ran (regs [(0, 0xFF)]) 0xF029 (fun t => t.i == 0x4FB) = true := by decide

theorem test_ldBcd : ran ((regs [(0, 0xFF)]).setI 0x300) 0xF033
    (fun t => t.load 0x300 == 2 && t.load 0x301 == 5 && t.load 0x302 == 5 && t.i == 0x300) = true := by decide

theorem test_ldBcd_bounds : ran ((memory 0xFFE [0xAA, 0xBB]).setReg 0 9) 0xF033
    (fun t => halts t 5 0x200 0xF033 && t.load 0xFFE == 0xAA && t.load 0xFFF == 0xBB && t.pc == 0x202) = true := by
  decide

theorem test_storeRegs : ran ((regs [(0, 1), (1, 2), (2, 3)]).setI 0x300) 0xF155
    (fun t => t.load 0x300 == 1 && t.load 0x301 == 2 && t.load 0x302 == 0 && t.i == 0x300) = true := by decide

theorem test_storeRegs_bounds : ran (State.reset.setI 0xFF1) 0xFF55 (fun t => halts t 5 0x200 0xFF55) = true := by
  decide

theorem test_loadRegs : ran ((memory 0x300 [2, 5, 4]).setReg 3 0x99) 0xF265
    (fun t => t.reg 0 == 2 && t.reg 1 == 5 && t.reg 2 == 4 && t.reg 3 == 0x99 && t.i == 0x300) = true := by decide

/-- V3.18: the font from address 0. -/
theorem test_loadRegs_font : ran State.reset 0xFF65 (fun t => t.reg 0 == 0xF0 && t.reg 0xF == 0xF0 &&
    t.reg 5 == 0x20) = true := by decide

/-! ### Control flow (vectors V4) -/

theorem test_nop : ran State.reset 0x0000 (fun t => t == State.reset.setPc 0x202) = true := by decide

theorem test_jp : ran State.reset 0x1FFF (fun t => t.pc == 0xFFF && !t.halted) = true := by decide

theorem test_call : ran (State.reset.setPc 0xFFE) 0x2FFE
    (fun t => t.stack[0] == 0x1000 && t.sp == 1 && t.pc == 0xFFE) = true := by decide

theorem test_call_overflow : ran (depth 16) 0x2300 (fun t => halts t 3 0x200 0x2300 && t.sp == 16 &&
    t.pc == 0x202) = true := by decide

theorem test_ret : ran (State.reset.push 0x206) 0x00EE
    (fun t => t.sp == 0 && t.pc == 0x206 && t.stack[0] == 0x206) = true := by decide

theorem test_ret_underflow : ran State.reset 0x00EE (fun t => halts t 4 0x200 0x00EE && t.sp == 0 &&
    t.pc == 0x202) = true := by decide

theorem test_seByte : ran State.reset 0x3000 (fun t => t.pc == 0x204) = true ∧
    ran State.reset 0x3001 (fun t => t.pc == 0x202) = true := by decide

theorem test_sneByte : ran (regs [(1, 5)]) 0x4105 (fun t => t.pc == 0x202) = true ∧
    ran (regs [(1, 5)]) 0x4106 (fun t => t.pc == 0x204) = true := by decide

theorem test_seReg : ran (regs [(2, 7), (3, 7)]) 0x5230 (fun t => t.pc == 0x204) = true ∧
    ran (regs [(2, 7), (3, 8)]) 0x5230 (fun t => t.pc == 0x202) = true := by decide

theorem test_sneReg : ran (regs [(2, 7), (3, 8)]) 0x9230 (fun t => t.pc == 0x204) = true ∧
    ran (regs [(2, 7)]) 0x9220 (fun t => t.pc == 0x202) = true := by decide

theorem test_jpV0 : ran (regs [(0, 0xFF)]) 0xBFFF (fun t => t.pc == 0x10FE && !t.halted) = true := by decide

theorem test_jpV0_register : ran (regs [(3, 0x50)]) 0xB300 (fun t => t.pc == 0x300) = true := by decide

/-! ### Display (vectors L1.7, V5) -/

theorem test_cls : ran ((State.reset.setFb (State.reset.fb.flip 3 4)).setReg 0xF 7) 0x00E0
    (fun t => !t.fb.pixel 3 4 && t.reg 0xF == 7) = true := by decide

/-- V5.4 and V5.5 together: bit 7 is the leftmost pixel, and both coordinates wrap. -/
theorem test_drw_wraps : ran (((memory 0x300 [0xF0, 0x08]).setReg 0 0x3E).setReg 1 0x1F) 0xD012
    (fun t => t.fb.pixel 62 31 && t.fb.pixel 63 31 && t.fb.pixel 0 31 && t.fb.pixel 1 31 && !t.fb.pixel 2 31 &&
      t.fb.pixel 2 0 && !t.fb.pixel 62 0 && t.reg 0xF == 0) = true := by decide

/-- V5.10: one pixel turned off, one on. -/
theorem test_drw_collides : ran ((memory 0x300 [0xC0]).setFb (State.reset.fb.flip 0 0)) 0xD011
    (fun t => !t.fb.pixel 0 0 && t.fb.pixel 1 0 && t.reg 0xF == 1) = true := by decide

/-! ### Keypad, timers and commands (vectors V6, V7) -/

theorem test_skp : ran ((pressed 15 (by decide)).setReg 0 15) 0xE09E (fun t => t.pc == 0x204) = true ∧
    ran (pressed 15 (by decide)) 0xE09E (fun t => t.pc == 0x202) = true := by decide

theorem test_skp_index : ran (regs [(0, 0x10)]) 0xE09E (fun t => halts t 6 0x200 0xE09E && t.pc == 0x202) = true := by
  decide

theorem test_sknp : ran ((pressed 5 (by decide)).setReg 0 5) 0xE0A1 (fun t => t.pc == 0x202) = true ∧
    ran (regs [(0, 5)]) 0xE0A1 (fun t => t.pc == 0x204) = true := by decide

theorem test_sknp_index : ran (regs [(0, 0xFF)]) 0xE0A1 (fun t => halts t 6 0x200 0xE0A1) = true := by decide

theorem test_ldKey_waits : ran State.reset 0xF30A (fun t => t == State.reset.withFetchWord 16 0xF30A) = true := by
  decide

theorem test_ldKey_lowest : ran (State.reset.setKeys ((State.reset.key.set 9 true).set 4 true)) 0xF30A
    (fun t => t.reg 3 == 4 && t.pc == 0x202) = true := by decide

theorem test_ldFromDt : ran (State.reset.setDt 0x3C) 0xF307 (fun t => t.reg 3 == 0x3C && t.dt == 0x3C) = true := by
  decide

theorem test_ldToDt : ran (regs [(0, 7)]) 0xF015 (fun t => t.dt == 7 && t.st == 0) = true := by decide

theorem test_ldToSt : ran (regs [(0, 1)]) 0xF018 (fun t => t.st == 1 && t.dt == 0) = true := by decide

/-- V6.17: the tone on the tick from 1 to 0. -/
theorem test_tick_tone : answered .tickTimers ((State.reset.setDt 5).setSt 1)
    (fun t r => t.dt == 4 && t.st == 0 && r == .ticked true) = true := by decide

/-- V6.15: no tone at 0. -/
theorem test_tick_zero : answered .tickTimers State.reset (fun t r => t.dt == 0 && r == .ticked false) = true := by
  decide

/-- V7.7: row-major order. -/
theorem test_display : answered .getDisplay (State.reset.setFb (State.reset.fb.flip 2 1))
    (fun _ r => match r with
      | .display pixels => pixels[66]? == some true && pixels[65]? == some false && pixels[129]? == some false
      | _ => false) = true := by decide

/-- V7.5: LOAD writes only its bytes. -/
theorem test_load : answered (.load [0x12, 0x34]) (memory 0x202 [0x99])
    (fun t r => t.load 0x200 == 0x12 && t.load 0x201 == 0x34 && t.load 0x202 == 0x99 && r == .ok) = true := by decide

/-- V7.2: RESET gives the construction state. -/
theorem test_reset : answered .reset (stopped.setDt 9) (fun t r => t == State.reset && r == .done) = true := by decide

/-! ### Witnesses: for every statement with hypotheses, states and operands that meet them -/

/-- A state whose next instruction is the word `w`. -/
def upNext (w : Nat) : State := State.reset.withFetchWord 16 w

theorem witness_StepRunsDecodedInstruction : (upNext 0xF055).halted = false ∧ NextIs (upNext 0xF055) (.storeRegs 0) :=
  ⟨rfl, by decide, by decide⟩

theorem witness_StepCommandFollowsTheCycle : stopped.halted = true ∧
    ((State.reset.setPc 0xFFF).halted = false ∧ 0xFFE < (State.reset.setPc 0xFFF).pc.toNat) ∧
    ((upNext 0x0001).halted = false ∧ (upNext 0x0001).pc.toNat ≤ 0xFFE ∧
      decode ((upNext 0x0001).wordAt (upNext 0x0001).pc.toNat) = none) := by
  decide

theorem witness_StepCommandFollowsTheCycle_instruction :
    (upNext 0x00EE).halted = false ∧ NextIs (upNext 0x00EE) .ret := ⟨rfl, by decide, by decide⟩

theorem witness_StepIsTheStepCommandWithAFreeByte :
    NextIs (upNext 0x8014) (.addReg 0 1) ∧ ∀ x kk, Instr.addReg 0 1 ≠ .rnd x kk :=
  ⟨⟨by decide, by decide⟩, fun _ _ h => by cases h⟩

theorem witness_FetchReadsTheBigEndianWord : (State.reset.setPc 0xFFE).pc.toNat ≤ 0xFFE ∧
    0xFFE < (State.reset.setPc 0xFFF).pc.toNat ∧ (State.reset.setPc 0xFFF).halted = false := by decide

theorem witness_IllegalWordsAreExactlyTheTable : (upNext 0x0001).halted = false ∧ (upNext 0x0001).pc.toNat ≤ 0xFFE ∧
    IllegalWord ((upNext 0x0001).wordAt (upNext 0x0001).pc.toNat) :=
  ⟨rfl, by decide, .inl (by decide)⟩

theorem witness_AtMostOnePatternCovers : (⟨0xF000, 0xA000⟩ : Pattern) ∈ opcodePatterns ∧
    (⟨0xF000, 0xA000⟩ : Pattern).covers 0xA2F0 = true := by decide

theorem witness_DecodeSelectsTheCoveringPattern : decode 0xA2F0 = some (.ldI 0x2F0) ∧ decode 0x5121 = none := by decide

theorem witness_OnlyShiftsIgnoreAField : decode 0x8236 = some (.shr 2) ∧ decode 0x8235 = some (.sub 2 3) := by decide

/-- A state at the top of memory that meets the invariant. -/
theorem witness_invariant : (State.reset.setPc 0x1000).Inv :=
  ⟨by decide, by decide, by decide, .inl (by decide)⟩

theorem witness_StepKeepsInvariant : ∃ t, (State.reset.setPc 0x1000).Inv ∧ step (State.reset.setPc 0x1000) = .next t :=
  ⟨_, witness_invariant, rfl⟩

theorem witness_CommandsKeepInvariant : ∃ t r, ({ Config.spec with resetPc := 0x10FE } : Config).resetPc.toNat ≤ 0x10FE ∧
    (State.reset.setPc 0x1000).Inv ∧
    applyCommand { Config.spec with resetPc := 0x10FE } .reset (State.reset.setPc 0x1000) = .next (t, r) :=
  ⟨_, _, by decide, witness_invariant, rfl⟩

theorem witness_CommandSequencesCompose : ∃ t u rs us,
    applyCommands Config.spec [.tickTimers] State.reset = .next (t, rs) ∧
    applyCommands Config.spec [.updateKeys (State.reset.key.set 3 true)] t = .next (u, us) := ⟨_, _, _, _, rfl, rfl⟩

theorem witness_FrameOfEveryInstruction : ∃ t, exec (.ldBcd 0) (State.reset.setI 0xFFD) = .next t := ⟨_, rfl⟩

theorem witness_FrameOfEveryInstruction_outside :
    Instr.mayWrite (.addReg 1 2) 3 = false ∧ ¬ Instr.storesTo (.ldBcd 0) (State.reset.setI 0xFFC) 0xFFF :=
  ⟨by decide, by simp [Instr.storesTo, State.indexAddr]⟩

theorem witness_VfChangesOnlyAsFlagOrDestination : ∃ t, exec (.sub 1 2) State.reset = .next t ∧
    t.reg vf ≠ State.reset.reg vf := ⟨_, rfl, by decide⟩

theorem witness_PcAfterEveryInstruction : ∃ t, (upNext 0x2FFE).halted = false ∧ NextIs (upNext 0x2FFE) (.call 0xFFE) ∧
    step (upNext 0x2FFE) = .next t ∧ t.halted = false := ⟨_, rfl, ⟨by decide, by decide⟩, rfl, rfl⟩

theorem witness_SoundTimerIsNeverRead : (∃ t, exec (.ldFromDt 1) (State.reset.setSt 9) = .next t) ∧
    (∀ x, Instr.ldFromDt 1 ≠ .ldToSt x) ∧ (∃ t, exec (.ldToSt 1) (State.reset.setSt 9) = .next t) :=
  ⟨⟨_, rfl⟩, fun _ h => by simp at h, ⟨_, rfl⟩⟩

/-- V3.20 with two registers: the words just above PC. -/
theorem witness_StoreIsSeenByTheNextFetch : ∃ s : State, s.indexAddr + (1 : Reg).toNat ≤ 0xFFF ∧ s.halted = false ∧
    (1 : Reg).toNat = (0 : Reg).toNat + 1 ∧ (1 : Reg).toNat ≤ (1 : Reg).toNat ∧
    s.pc.toNat = s.indexAddr + (0 : Reg).toNat ∧
    decode (wordOfBytes (s.reg 0) (s.reg 1)) = some (.jp 0x200) :=
  ⟨((regs [(0, 0x12)]).setI 0xFFE).setPc 0xFFE, by decide, rfl, rfl, by decide, by decide, by decide⟩

theorem witness_FaultCausesAreExactlyTheListed : ∃ t, (upNext 0x00EE).halted = false ∧
    step (upNext 0x00EE) = .next t ∧ FaultedWith 4 0x00EE (upNext 0x00EE) t :=
  ⟨_, rfl, rfl, by decide, by decide, by decide, by decide⟩

theorem witness_FaultCausesAreExactlyTheListed_conditions :
    ((∃ nnn, NextIs { upNext 0x2300 with sp := 16 } (.call nnn)) ∧ (16 : Fin 17).val = 16) ∧
    AddressesAboveMemory (State.reset.setI 0xFFF) (.drw 0 1 2) ∧ AddressesAboveMemory (State.reset.setI 0xFFE) (.ldBcd 0) ∧
    AddressesAboveMemory (State.reset.setI 0xFF1) (.storeRegs 15) ∧
    NextIs ((upNext 0xE09E).setReg 0 16) (.skp 0) ∧ 15 < (((upNext 0xE09E).setReg 0 16).reg 0).toNat :=
  ⟨⟨⟨0x300, by decide, by decide⟩, rfl⟩, ⟨by decide, by decide⟩, by simp [AddressesAboveMemory, State.indexAddr],
    by simp [AddressesAboveMemory, State.indexAddr], ⟨by decide, by decide⟩, by decide⟩

theorem witness_FaultsArePrecise : ∃ t u, (State.reset.setPc 0xFFF).halted = false ∧
    step (State.reset.setPc 0xFFF) = .next t ∧ t.halted = true ∧ t.faultCause = 1 ∧
    (upNext 0x0001).halted = false ∧ step (upNext 0x0001) = .next u ∧ u.halted = true ∧ u.faultCause ≠ 1 :=
  ⟨_, _, rfl, rfl, rfl, rfl, rfl, rfl, by decide, by decide⟩

theorem witness_HaltedCoreIgnoresStepAndTick : stopped.halted = true ∧ (List.replicate 0xE00 (7 : Byte)).length ≤ 0xE00 ∧
    0xE00 < (List.replicate 0xE01 (7 : Byte)).length :=
  ⟨rfl, by rw [List.length_replicate], by rw [List.length_replicate]; omega⟩

theorem witness_OnlyResetClearsTheHalt : ∃ t r, stopped.halted = true ∧ Command.load [1] ≠ .reset ∧
    applyCommand Config.spec (.load [1]) stopped = .next (t, r) := ⟨_, _, rfl, by decide, rfl⟩

theorem witness_LoadCopiesTheProgram : 0xE00 < (List.replicate 0xE01 (7 : Byte)).length ∧
    (List.replicate 0xE00 (7 : Byte)).length ≤ 0xE00 ∧ [(7 : Byte), 8][1]? = some 8 :=
  ⟨by rw [List.length_replicate]; omega, by rw [List.length_replicate], rfl⟩

theorem witness_LoadWritesNothingElse : ∃ t r, applyCommand Config.spec (.load [1, 2]) stopped = .next (t, r) ∧
    (0x1FF < 0x200 ∨ 0x200 + [1, 2].length ≤ 0x1FF) ∧ (0x202 < 0x200 ∨ 0x200 + [1, 2].length ≤ 0x202) :=
  ⟨_, _, rfl, by decide, by decide⟩

theorem witness_EmptyMemoryRunsToFetchError : 1792 ≤ 1792 ∧ 0 ≤ 1792 := by decide

theorem witness_TickCountsDownAndSounds : stopped.halted = true ∧ State.reset.halted = false ∧
    (State.reset.setSt 1).st = 1 ∧ (State.reset.setSt 2).st ≠ 1 := by decide

theorem witness_TicksSoundExactlyOnce : (State.reset.setSt 5).halted = false ∧
    (1 ≤ (State.reset.setSt 5).st.toNat ∧ (State.reset.setSt 5).st.toNat ≤ 5) ∧
    ¬ (1 ≤ State.reset.st.toNat ∧ State.reset.st.toNat ≤ 5) := by decide

theorem witness_UpdateKeysReplacesEveryKey : answered (.updateKeys (State.reset.key.set 3 true)) (pressed 5 (by decide))
    (fun t _ => t.key[3] && !t.key[5]) = true := by decide

theorem witness_GetDisplayIsRowMajor : 63 < 64 ∧ 31 < 32 ∧ (State.reset.fb.flip 63 31).pixel 63 31 = true := by decide

theorem witness_SelfJumpIsAFixedPoint : (upNext 0x1200).halted = false ∧ NextIs (upNext 0x1200) (.jp 0x200) ∧
    (0x200 : Addr).toNat = (upNext 0x1200).pc.toNat := ⟨rfl, ⟨by decide, by decide⟩, by decide⟩

/-- The inner hypotheses of the register frames: another register, VF as destination, and not. -/
theorem witness_register_frames : (3 : Reg) ≠ 2 ∧ (3 : Reg) ≠ vf ∧ (0xF : Reg) = vf ∧
    256 ≤ ((regs [(0, 0xFF), (1, 1)]).reg 0).toNat + ((regs [(0, 0xFF), (1, 1)]).reg 1).toNat := by decide

theorem witness_BcdStoresThreeDigits : (State.reset.setI 0xFFD).i.toNat + 2 ≤ 0xFFF ∧
    0xFFF < (State.reset.setI 0xFFE).i.toNat + 2 := by decide

theorem witness_BlockStoreWritesRegistersInOrder : (State.reset.setI 0xFF0).i.toNat + (0xF : Reg).toNat ≤ 0xFFF ∧
    0xFFF < (State.reset.setI 0xFF1).i.toNat + (0xF : Reg).toNat := by decide

theorem witness_BlockLoadReadsRegistersInOrder : (State.reset.setI 0xFFE).i.toNat + (1 : Reg).toNat ≤ 0xFFF ∧
    0xFFF < (State.reset.setI 0xFFF).i.toNat + (1 : Reg).toNat ∧ (1 : Reg).toNat < (2 : Reg).toNat := by decide

/-- Targets above the last address that can be fetched, and below. -/
theorem witness_NopAndJumps : (0xFFF : Addr).toNat = 0xFFF ∧
    0xFFE < (0xFFF : Addr).toNat + ((regs [(0, 0xFF)]).reg 0).toNat ∧
    ¬ 0xFFE < (0x300 : Addr).toNat + ((regs [(0, 4)]).reg 0).toNat := by decide

/-- A skip at 0xFFE. -/
theorem witness_SkipOnImmediate : ran (State.reset.setPc 0xFFE) 0x3000 (fun t => t.pc == 0x1002 && t.fetch == none) =
    true := by decide

theorem witness_SkipOnRegisters : (1 : Nibble) ≠ 0 ∧ (regs [(2, 7), (3, 7)]).reg 2 = (regs [(2, 7), (3, 7)]).reg 3 ∧
    (regs [(2, 7)]).reg 2 ≠ (regs [(2, 7)]).reg 3 := by decide

theorem witness_CallPushesTheReturnAddress : (depth 15).sp.val < 16 ∧ (depth 16).sp.val = 16 ∧ 0 ≠ (depth 15).sp.val := by
  decide

theorem witness_ReturnPopsTheStack : 0 < (depth 1).sp.val ∧ 0 < (depth 16).sp.val ∧ (depth 0).sp.val = 0 := by decide

theorem witness_ReturnUndoesCall : (depth 15).sp.val < 16 ∧ (depth 0).sp.val < 16 := by decide

/-- The draw at the top of memory, with no row at all, and one row too many. -/
theorem witness_DrawXorsTheSpriteMask : (0 : Nibble).toNat = 0 ∧
    (State.reset.setI 0xFFF).i.toNat + (1 : Nibble).toNat - 1 ≤ 0xFFF ∧
    0 < (2 : Nibble).toNat ∧ 0xFFF < (State.reset.setI 0xFFF).i.toNat + (2 : Nibble).toNat - 1 := by decide

/-- The draw of the font's digit 0 covers the pixel at (0, 0), and not the one at (1, 1). -/
theorem witness_DrawXorsTheSpriteMask_mask :
    SpriteCovers State.reset 0 1 5 0 0 ∧ ¬ SpriteCovers State.reset 0 1 5 1 1 := by
  constructor
  · exact ⟨0, by decide, 0, by decide, by decide, by decide, by decide⟩
  · unfold SpriteCovers; decide

/-- A collision, and a draw that covers no set pixel. -/
theorem witness_DrawXorsTheSpriteMask_collision :
    (∃ px py, px < 64 ∧ py < 32 ∧ SpriteCovers (State.reset.setFb (State.reset.fb.flip 0 0)) 0 1 5 px py ∧
      (State.reset.setFb (State.reset.fb.flip 0 0)).fb.pixel px py = true) ∧
    (∀ px py, px < 64 → py < 32 → SpriteCovers State.reset 0 1 5 px py → State.reset.fb.pixel px py = false) :=
  ⟨⟨0, 0, by decide, by decide, ⟨0, by decide, 0, by decide, by decide, by decide, by decide⟩, by decide⟩,
    fun px py _ _ _ => Framebuffer.pixel_blank px py⟩

theorem witness_DrawTwiceRestoresTheDisplay : (0 : Reg) ≠ vf ∧ (1 : Reg) ≠ vf ∧
    ((15 : Nibble).toNat = 0 ∨ (State.reset.setI 0xFF1).i.toNat + (15 : Nibble).toNat - 1 ≤ 0xFFF) := by decide

theorem witness_KeySkips : ((regs [(0, 15)]).reg 0).toNat = 15 ∧ 15 < ((regs [(0, 16)]).reg 0).toNat := by decide

theorem witness_SoundTimerLoadEmitsNoTone : (regs [(0, 1)]).halted = false ∧ (regs [(0, 1)]).reg 0 = 1 ∧
    Command.reset ≠ .tickTimers ∧ ∃ t r, applyCommand Config.spec .reset (State.reset.setSt 1) = .next (t, r) :=
  ⟨rfl, by decide, by decide, _, _, rfl⟩

theorem witness_KeyWaitTakesTheLowestKey : (∀ k, (h : k < 16) → State.reset.key[k] = false) ∧
    (pressed 15 (by decide)).key[15] = true ∧ (∀ j, (hj : j < 15) → (pressed 15 (by decide)).key[j] = false) := by
  decide

theorem witness_KeyWaitIsAFixedPointUntilAKey : (upNext 0xF30A).halted = false ∧ NextIs (upNext 0xF30A) (.ldKey 3) ∧
    (∀ k, (h : k < 16) → (upNext 0xF30A).key[k] = false) := ⟨rfl, ⟨by decide, by decide⟩, by decide⟩

theorem witness_KeyWaitIsAFixedPointUntilAKey_pressed :
    NextIs ((pressed 0 (by decide)).withFetchWord 16 0xF30A) (.ldKey 3) ∧
    ((pressed 0 (by decide)).withFetchWord 16 0xF30A).key[0] = true ∧
    (∀ j, (hj : j < 0) → ((pressed 0 (by decide)).withFetchWord 16 0xF30A).key[j] = false) :=
  ⟨⟨by decide, by decide⟩, by decide, by decide⟩

end Sys2Proof.Tests
end

section
/-! SUPPORT. What a row of the opcode table asks of a word's fields, and that the decoder answers with an instruction
exactly under a row (30_encoding.md R83, R86). -/

namespace Sys2Proof

/-! ### A row covers a word when the fields it fixes agree -/

theorem Pattern.covers_iff (p : Pattern) (op : Word) : p.covers op = true ↔ op &&& p.mask = p.value := beq_iff_eq

/-- Mask 0xFFFF fixes the whole word. -/
theorem Pattern.covers_FFFF (op w : Word) : Pattern.covers ⟨0xFFFF, w⟩ op = true ↔ op = w := by
  rw [Pattern.covers_iff, show (0xFFFF : Word) = BitVec.allOnes 16 from rfl, BitVec.and_allOnes]

/-- Mask 0xF000 fixes `d1`. -/
theorem Pattern.covers_F000 (op : Word) (d : Nibble) :
    Pattern.covers ⟨0xF000#16, packNnn d 0⟩ op = true ↔ fieldD1 op = d := by
  simp only [Pattern.covers_iff, and_F000]
  exact ⟨fun h => by simpa using congrArg fieldD1 h, fun h => by rw [h]⟩

/-- Mask 0xF00F fixes `d1` and `d4`. -/
theorem Pattern.covers_F00F (op : Word) (d n : Nibble) :
    Pattern.covers ⟨0xF00F#16, packXYN d 0 0 n⟩ op = true ↔ fieldD1 op = d ∧ fieldN op = n := by
  simp only [Pattern.covers_iff, and_F00F]
  exact ⟨fun h => ⟨by simpa using congrArg fieldD1 h, by simpa using congrArg fieldN h⟩,
    fun ⟨hd, hn⟩ => by rw [hd, hn]⟩

/-- Mask 0xF0FF fixes `d1` and `kk`. -/
theorem Pattern.covers_F0FF (op : Word) (d : Nibble) (kk : Byte) :
    Pattern.covers ⟨0xF0FF#16, packXKk d 0 kk⟩ op = true ↔ fieldD1 op = d ∧ fieldKk op = kk := by
  simp only [Pattern.covers_iff, and_F0FF]
  exact ⟨fun h => ⟨by simpa using congrArg fieldD1 h, by simpa using congrArg fieldKk h⟩,
    fun ⟨hd, hk⟩ => by rw [hd, hk]⟩

/-! ### The table and the instructions' rows are the same rows -/

theorem Instr.pattern_mem (i : Instr) : i.pattern ∈ opcodePatterns := by
  cases i <;> (dsimp only [Instr.pattern]; decide)

/-- A row's own value is a word of the row, and decodes to an instruction of it. -/
theorem exists_instr_pattern_eq : ∀ p ∈ opcodePatterns, ∃ i : Instr, i.pattern = p := by
  have values : ∀ p ∈ opcodePatterns, (decode p.value).map Instr.pattern = some p := by decide
  intro p hp
  obtain ⟨i, -, hi⟩ := Option.map_eq_some_iff.1 (values p hp)
  exact ⟨i, hi⟩

/-! ### What each decoder answers lies in the row of the fields it read -/

theorem decodeSystem_row {op : Word} {i : Instr} (h : decodeSystem op = some i) : i.pattern = ⟨0xFFFF, op⟩ := by
  unfold decodeSystem at h
  split_ifs at h with hw hw hw <;> (cases h; rw [hw]; rfl)

theorem decodeAlu_row {x y : Reg} {n : Nibble} {i : Instr} (h : decodeAlu x y n = some i) :
    i.pattern = ⟨0xF00F, packXYN 0x8 0 0 n⟩ := by
  unfold decodeAlu at h
  split_ifs at h with hn hn hn hn hn hn hn hn hn <;> (cases h; rw [hn]; rfl)

theorem decodeKeySkip_row {x : Reg} {kk : Byte} {i : Instr} (h : decodeKeySkip x kk = some i) :
    i.pattern = ⟨0xF0FF, packXKk 0xE 0 kk⟩ := by
  unfold decodeKeySkip at h
  split_ifs at h with hk hk <;> (cases h; rw [hk]; rfl)

theorem decodeMisc_row {x : Reg} {kk : Byte} {i : Instr} (h : decodeMisc x kk = some i) :
    i.pattern = ⟨0xF0FF, packXKk 0xF 0 kk⟩ := by
  unfold decodeMisc at h
  split_ifs at h with hk hk hk hk hk hk hk hk hk <;> (cases h; rw [hk]; rfl)

/-- The row of the decoded instruction covers the word (30_encoding.md R83). -/
theorem covers_of_decode {op : Word} {i : Instr} (h : decode op = some i) : i.pattern.covers op = true := by
  unfold decode at h
  obtain ⟨-, h⟩ | ⟨h0, h⟩ := ite_eq_iff.1 h
  · rw [decodeSystem_row h, Pattern.covers_FFFF]
  obtain ⟨hd, h⟩ | ⟨h1, h⟩ := ite_eq_iff.1 h
  · cases h; exact (Pattern.covers_F000 op 0x1).2 hd
  obtain ⟨hd, h⟩ | ⟨h2, h⟩ := ite_eq_iff.1 h
  · cases h; exact (Pattern.covers_F000 op 0x2).2 hd
  obtain ⟨hd, h⟩ | ⟨h3, h⟩ := ite_eq_iff.1 h
  · cases h; exact (Pattern.covers_F000 op 0x3).2 hd
  obtain ⟨hd, h⟩ | ⟨h4, h⟩ := ite_eq_iff.1 h
  · cases h; exact (Pattern.covers_F000 op 0x4).2 hd
  obtain ⟨hd, h⟩ | ⟨h5, h⟩ := ite_eq_iff.1 h
  · obtain ⟨hn, h⟩ | ⟨-, h⟩ := ite_eq_iff.1 h
    · cases h; exact (Pattern.covers_F00F op 0x5 0x0).2 ⟨hd, hn⟩
    · cases h
  obtain ⟨hd, h⟩ | ⟨h6, h⟩ := ite_eq_iff.1 h
  · cases h; exact (Pattern.covers_F000 op 0x6).2 hd
  obtain ⟨hd, h⟩ | ⟨h7, h⟩ := ite_eq_iff.1 h
  · cases h; exact (Pattern.covers_F000 op 0x7).2 hd
  obtain ⟨hd, h⟩ | ⟨h8, h⟩ := ite_eq_iff.1 h
  · rw [decodeAlu_row h]; exact (Pattern.covers_F00F op 0x8 _).2 ⟨hd, rfl⟩
  obtain ⟨hd, h⟩ | ⟨h9, h⟩ := ite_eq_iff.1 h
  · obtain ⟨hn, h⟩ | ⟨-, h⟩ := ite_eq_iff.1 h
    · cases h; exact (Pattern.covers_F00F op 0x9 0x0).2 ⟨hd, hn⟩
    · cases h
  obtain ⟨hd, h⟩ | ⟨hA, h⟩ := ite_eq_iff.1 h
  · cases h; exact (Pattern.covers_F000 op 0xA).2 hd
  obtain ⟨hd, h⟩ | ⟨hB, h⟩ := ite_eq_iff.1 h
  · cases h; exact (Pattern.covers_F000 op 0xB).2 hd
  obtain ⟨hd, h⟩ | ⟨hC, h⟩ := ite_eq_iff.1 h
  · cases h; exact (Pattern.covers_F000 op 0xC).2 hd
  obtain ⟨hd, h⟩ | ⟨hD, h⟩ := ite_eq_iff.1 h
  · cases h; exact (Pattern.covers_F000 op 0xD).2 hd
  obtain ⟨hd, h⟩ | ⟨hE, h⟩ := ite_eq_iff.1 h
  · rw [decodeKeySkip_row h]; exact (Pattern.covers_F0FF op 0xE _).2 ⟨hd, rfl⟩
  have hd : fieldD1 op = 0xF := by bv_omega
  rw [decodeMisc_row h]
  exact (Pattern.covers_F0FF op 0xF _).2 ⟨hd, rfl⟩

/-! ### A word under a row is decoded -/

/-- A word under the row of an instruction is decoded: the decoder reads only the fields the row fixes to choose it. -/
theorem decode_ne_none_of_covers {op : Word} (i : Instr) (h : i.pattern.covers op = true) : decode op ≠ none := by
  cases i with
  | nop | cls | ret => rw [(Pattern.covers_FFFF op _).1 h]; decide
  | jp => simp [decode, (Pattern.covers_F000 op 0x1).1 h]
  | call => simp [decode, (Pattern.covers_F000 op 0x2).1 h]
  | seByte => simp [decode, (Pattern.covers_F000 op 0x3).1 h]
  | sneByte => simp [decode, (Pattern.covers_F000 op 0x4).1 h]
  | seReg => simp [decode, (Pattern.covers_F00F op 0x5 0x0).1 h]
  | ldByte => simp [decode, (Pattern.covers_F000 op 0x6).1 h]
  | addByte => simp [decode, (Pattern.covers_F000 op 0x7).1 h]
  | ldReg => simp [decode, decodeAlu, (Pattern.covers_F00F op 0x8 0x0).1 h]
  | or => simp [decode, decodeAlu, (Pattern.covers_F00F op 0x8 0x1).1 h]
  | and => simp [decode, decodeAlu, (Pattern.covers_F00F op 0x8 0x2).1 h]
  | xor => simp [decode, decodeAlu, (Pattern.covers_F00F op 0x8 0x3).1 h]
  | addReg => simp [decode, decodeAlu, (Pattern.covers_F00F op 0x8 0x4).1 h]
  | sub => simp [decode, decodeAlu, (Pattern.covers_F00F op 0x8 0x5).1 h]
  | shr => simp [decode, decodeAlu, (Pattern.covers_F00F op 0x8 0x6).1 h]
  | subn => simp [decode, decodeAlu, (Pattern.covers_F00F op 0x8 0x7).1 h]
  | shl => simp [decode, decodeAlu, (Pattern.covers_F00F op 0x8 0xE).1 h]
  | sneReg => simp [decode, (Pattern.covers_F00F op 0x9 0x0).1 h]
  | ldI => simp [decode, (Pattern.covers_F000 op 0xA).1 h]
  | jpV0 => simp [decode, (Pattern.covers_F000 op 0xB).1 h]
  | rnd => simp [decode, (Pattern.covers_F000 op 0xC).1 h]
  | drw => simp [decode, (Pattern.covers_F000 op 0xD).1 h]
  | skp => simp [decode, decodeKeySkip, (Pattern.covers_F0FF op 0xE 0x9E).1 h]
  | sknp => simp [decode, decodeKeySkip, (Pattern.covers_F0FF op 0xE 0xA1).1 h]
  | ldFromDt => simp [decode, decodeMisc, (Pattern.covers_F0FF op 0xF 0x07).1 h]
  | ldKey => simp [decode, decodeMisc, (Pattern.covers_F0FF op 0xF 0x0A).1 h]
  | ldToDt => simp [decode, decodeMisc, (Pattern.covers_F0FF op 0xF 0x15).1 h]
  | ldToSt => simp [decode, decodeMisc, (Pattern.covers_F0FF op 0xF 0x18).1 h]
  | addI => simp [decode, decodeMisc, (Pattern.covers_F0FF op 0xF 0x1E).1 h]
  | ldFont => simp [decode, decodeMisc, (Pattern.covers_F0FF op 0xF 0x29).1 h]
  | ldBcd => simp [decode, decodeMisc, (Pattern.covers_F0FF op 0xF 0x33).1 h]
  | storeRegs => simp [decode, decodeMisc, (Pattern.covers_F0FF op 0xF 0x55).1 h]
  | loadRegs => simp [decode, decodeMisc, (Pattern.covers_F0FF op 0xF 0x65).1 h]

/-- Decode fails exactly when no row covers the word (30_encoding.md R83, R87). -/
theorem decode_eq_none_iff (op : Word) : decode op = none ↔ ∀ p ∈ opcodePatterns, ¬ p.covers op = true := by
  constructor
  · intro h p hp hc
    obtain ⟨i, rfl⟩ := exists_instr_pattern_eq p hp
    exact decode_ne_none_of_covers i hc h
  · intro h
    refine Option.eq_none_iff_forall_ne_some.2 fun i hi => ?_
    exact h i.pattern i.pattern_mem (covers_of_decode hi)

/-- Settles O7: the decoded instruction's row covers the word, and the decoder answers under every row. -/
theorem decodeSelectsTheCoveringPattern : Obligations.DecodeSelectsTheCoveringPattern := by
  refine ⟨rfl, fun op => ⟨fun i h => ⟨i.pattern_mem, ?_⟩, ?_⟩⟩
  · exact (Pattern.covers_iff _ _).1 (covers_of_decode h)
  · simpa only [Pattern.covers_iff] using decode_eq_none_iff op

end Sys2Proof
end

section
/-! SUPPORT. The arithmetic and logic instructions that write one register and no flag (40_alu.md R101 to R103). -/

namespace Sys2Proof.Machine

theorem exec_ldByte (x : Reg) (kk : Byte) (s : State) : exec (.ldByte x kk) s = .next (s.setReg x kk) := rfl

theorem exec_addByte (x : Reg) (kk : Byte) (s : State) :
    exec (.addByte x kk) s = .next (s.setReg x (s.reg x + kk)) := rfl

theorem exec_ldReg (x y : Reg) (s : State) : exec (.ldReg x y) s = .next (s.setReg x (s.reg y)) := rfl

/-- A byte sum is the sum of the numbers mod 256 (40_alu.md R102). -/
theorem byte_add_eq_ofNat_mod (a b : Byte) : a + b = BitVec.ofNat 8 ((a.toNat + b.toNat) % 256) := by
  apply BitVec.eq_of_toNat_eq
  rw [BitVec.toNat_add, BitVec.toNat_ofNat, Nat.mod_mod]

/-- Settles O35: the sum is written as a register and nothing else is, and a byte sum wraps. -/
theorem addImmediateWrapsWithoutFlag : Obligations.AddImmediateWrapsWithoutFlag := by
  intro x kk s
  rw [← byte_add_eq_ofNat_mod]
  exact ⟨_, exec_addByte x kk s, s.setReg_writesReg x (s.reg x + kk)⟩

/-- Settles O34: both loads are one register write. -/
theorem loadWritesTheRegister : Obligations.LoadWritesTheRegister := fun x y kk s =>
  ⟨⟨_, exec_ldByte x kk s, s.setReg_writesReg x kk⟩, ⟨_, exec_ldReg x y s, s.setReg_writesReg x (s.reg y)⟩⟩

end Sys2Proof.Machine
end

section
/-! SUPPORT. What a write of PC leaves, and the jumps and skips, which write PC alone (42_control.md R150, R151,
R153, R155 to R159). -/

namespace Sys2Proof.Machine

/-! ### PC and the next fetch -/

/-- Fetch fails exactly on a PC above the last address that can be fetched (20_memory.md R53). -/
theorem State.fetch_eq_none_iff (s : State) : s.fetch = none ↔ 0xFFE < s.pc.toNat := by
  unfold State.fetch
  split <;> simp_all

/-- A write of PC as a frame (10_state.md R27). -/
theorem State.setPc_writesPc (s : State) (w : Word) : WritesPc w.toNat s (s.setPc w) := by
  refine ⟨by simp, fun p hp => ?_⟩
  cases p <;> simp_all [SamePart]

/-- A skip as a frame: PC alone may change (42_control.md R150). -/
theorem State.skipIf_onlyChanges_pc (s : State) (c : Bool) : OnlyChanges [.pc] s (s.skipIf c) := by
  cases c with
  | false => exact fun p _ => by cases p <;> simp [SamePart]
  | true => exact (s.setPc_writesPc (s.pc + 2)).2

/-! ### Jump targets, written unmasked -/

theorem toNat_zextAddr (nnn : Addr) : (zextAddr nnn).toNat = nnn.toNat :=
  BitVec.toNat_setWidth_of_le (by decide)

/-- The computed target is the exact sum: 12 bits and 8 bits never wrap 16 (42_control.md R159). -/
theorem toNat_zextAddr_add_zextByte (nnn : Addr) (b : Byte) :
    (zextAddr nnn + zextByte b).toNat = nnn.toNat + b.toNat := by
  rw [BitVec.toNat_add, toNat_zextAddr, zextByte, BitVec.toNat_setWidth_of_le (by decide)]
  omega

/-! ### What the jumps and skips answer -/

theorem exec_nop (s : State) : exec .nop s = .next s := rfl

theorem exec_jp (nnn : Addr) (s : State) : exec (.jp nnn) s = .next (s.setPc (zextAddr nnn)) := rfl

theorem exec_jpV0 (nnn : Addr) (s : State) :
    exec (.jpV0 nnn) s = .next (s.setPc (zextAddr nnn + zextByte (s.reg 0))) := rfl

theorem exec_seByte (x : Reg) (kk : Byte) (s : State) :
    exec (.seByte x kk) s = .next (s.skipIf (s.reg x = kk)) := rfl

theorem exec_sneByte (x : Reg) (kk : Byte) (s : State) :
    exec (.sneByte x kk) s = .next (s.skipIf (s.reg x ≠ kk)) := rfl

theorem exec_seReg (x y : Reg) (s : State) :
    exec (.seReg x y) s = .next (s.skipIf (s.reg x = s.reg y)) := rfl

theorem exec_sneReg (x y : Reg) (s : State) :
    exec (.sneReg x y) s = .next (s.skipIf (s.reg x ≠ s.reg y)) := rfl

/-! ### The register skips have `d4 = 0` -/

/-- 5xyN with `N` not 0 is no instruction (42_control.md R157, 30_encoding.md R87). -/
theorem decode_packXYN_5_eq_none (x y : Reg) {n : Nibble} (hn : n ≠ 0) : decode (packXYN 0x5 x y n) = none := by
  simpa [decode] using hn

/-- 9xyN with `N` not 0 is no instruction (42_control.md R158, 30_encoding.md R87). -/
theorem decode_packXYN_9_eq_none (x y : Reg) {n : Nibble} (hn : n ≠ 0) : decode (packXYN 0x9 x y n) = none := by
  simpa [decode] using hn

/-- Settles O45: both jumps are one write of PC with the exact target, which the next fetch refuses above 0xFFE. -/
theorem nopAndJumps : Obligations.NopAndJumps := by
  intro nnn s
  have jp := s.setPc_writesPc (zextAddr nnn)
  have jpV0 := s.setPc_writesPc (zextAddr nnn + zextByte (s.reg 0))
  rw [toNat_zextAddr] at jp
  rw [toNat_zextAddr_add_zextByte] at jpV0
  refine ⟨exec_nop s, ⟨_, exec_jp nnn s, jp, fun h => ?_⟩, ⟨_, exec_jpV0 nnn s, jpV0, fun h => ?_⟩⟩
  · rw [State.fetch_eq_none_iff, jp.1]; omega
  · rwa [State.fetch_eq_none_iff, jpV0.1]

/-- Settles O49: each is one skip on its comparison, and the next fetch refuses a PC above 0xFFE. -/
theorem skipOnImmediate : Obligations.SkipOnImmediate := fun x kk s =>
  ⟨⟨_, exec_seByte x kk s, by simp, s.skipIf_onlyChanges_pc _, (State.fetch_eq_none_iff _).2⟩,
    ⟨_, exec_sneByte x kk s, by simp, s.skipIf_onlyChanges_pc _⟩⟩

/-- Settles O50: each is one skip on its comparison, and the decoder refuses the words with another `d4`. -/
theorem skipOnRegisters : Obligations.SkipOnRegisters := fun x y s =>
  ⟨⟨_, exec_seReg x y s, by simp, s.skipIf_onlyChanges_pc _⟩,
    ⟨_, exec_sneReg x y s, by simp, s.skipIf_onlyChanges_pc _⟩,
    fun _ hn => ⟨decode_packXYN_5_eq_none x y hn, decode_packXYN_9_eq_none x y hn⟩⟩

end Sys2Proof.Machine
end

section
/-! SUPPORT. What a write of the framebuffer leaves, the pixels a display answer holds, and the clear (43_draw.md R171,
R174). -/

namespace Sys2Proof.Machine

/-- A write of the framebuffer as a frame (10_state.md R31). -/
theorem State.setFb_onlyChanges_display (s : State) (fb : Framebuffer) : OnlyChanges [.display] s (s.setFb fb) := by
  intro p hp
  cases p <;> simp_all [SamePart]

/-- A display answer holds pixels of the framebuffer only (43_draw.md R174). -/
theorem Framebuffer.exists_pixel_of_mem_rowMajor {fb : Framebuffer} {p : Bool} (h : p ∈ fb.rowMajor) :
    ∃ x y, fb.pixel x y = p := by
  obtain ⟨row, hrow, hp⟩ := List.mem_flatMap.1 h
  obtain ⟨y, hy, rfl⟩ := Vector.getElem_of_mem (Vector.mem_toList_iff.1 hrow)
  obtain ⟨x, hx, rfl⟩ := Vector.getElem_of_mem (Vector.mem_toList_iff.1 hp)
  exact ⟨x, y, by simp [Framebuffer.pixel, Nat.mod_eq_of_lt hx, Nat.mod_eq_of_lt hy]⟩

theorem exec_cls (s : State) : exec .cls s = .next (s.setFb Framebuffer.blank) := rfl

theorem applyCommand_getDisplay (c : Config) (s : State) :
    applyCommand c .getDisplay s = .next (s, .display s.fb.rowMajor) := rfl

/-- Settles O51: the clear is one write of the blank framebuffer, and a display answer holds pixels of it only. -/
theorem clearUnsetsEveryPixel : Obligations.ClearUnsetsEveryPixel := by
  refine fun s => ⟨_, exec_cls s, Framebuffer.pixel_blank, s.setFb_onlyChanges_display _, fun c => ?_⟩
  refine ⟨_, applyCommand_getDisplay c _, fun p hp => ?_⟩
  obtain ⟨x, y, rfl⟩ := Framebuffer.exists_pixel_of_mem_rowMajor hp
  exact Framebuffer.pixel_blank x y

end Sys2Proof.Machine
end

section
/-! SUPPORT. The key wait and the delay timer loads: what each answers, and the delay timer's write as a frame
(44_keys_timers.md R183 to R185). -/

namespace Sys2Proof.Machine

/-! ### The key wait -/

/-- With no key pressed Fx0A answers PC back at the instruction itself (44_keys_timers.md R184). -/
theorem exec_ldKey_of_lowest_none {s : State} (x : Reg) (h : Keys.lowest s.key = none) :
    exec (.ldKey x) s = .next (s.setPc (s.pc - 2)) := by
  simp only [exec, execLdKey, h]

/-- With a key pressed Fx0A answers the lowest one's index in its register (44_keys_timers.md R184). -/
theorem exec_ldKey_of_lowest_some {s : State} {k : Nat} (x : Reg) (h : Keys.lowest s.key = some k) :
    exec (.ldKey x) s = .next (s.setReg x (BitVec.ofNat 8 k)) := by
  simp only [exec, execLdKey, h]

/-- Settles O57: the scan finds none exactly when no key is pressed, and then PC alone is written; else it finds the
lowest pressed key, and one register is. -/
theorem keyWaitTakesTheLowestKey : Obligations.KeyWaitTakesTheLowestKey := by
  refine fun x s => ⟨fun hnone => ?_, fun k h hk hlow => ?_⟩
  · have wait := exec_ldKey_of_lowest_none x (Keys.lowest_none.2 hnone)
    exact ⟨_, wait, s.setPc_pc _, (s.setPc_writesPc _).2⟩
  · have release := exec_ldKey_of_lowest_some x (Keys.lowest_eq h hk hlow)
    exact ⟨_, release, s.setReg_writesReg x _⟩

/-! ### The delay timer -/

/-- A write of the delay timer as a frame (10_state.md R30). -/
theorem State.setDt_onlyChanges_timers (s : State) (b : Byte) : OnlyChanges [.timers] s (s.setDt b) := by
  intro p hp
  cases p <;> simp_all [SamePart]

theorem exec_ldFromDt (x : Reg) (s : State) : exec (.ldFromDt x) s = .next (s.setReg x s.dt) := rfl

theorem exec_ldToDt (x : Reg) (s : State) : exec (.ldToDt x) s = .next (s.setDt (s.reg x)) := rfl

/-- Settles O55: the one load is a register write, the other a write of DT, which leaves ST. -/
theorem delayTimerLoads : Obligations.DelayTimerLoads := fun x s =>
  ⟨⟨_, exec_ldFromDt x s, s.setReg_writesReg x s.dt⟩,
    ⟨_, exec_ldToDt x s, s.setDt_dt _, s.setDt_st _, s.setDt_onlyChanges_timers _⟩⟩

end Sys2Proof.Machine
end

section
/-! SUPPORT. The key update: its write as a frame and what it answers (60_exceptions.md R226). -/

namespace Sys2Proof.Machine

/-- A write of the key state as a frame (10_state.md R32). -/
theorem State.setKeys_onlyChanges_keys (s : State) (keys : Keys) : OnlyChanges [.keys] s (s.setKeys keys) := by
  intro p hp
  cases p with
  | keys => exact absurd (List.mem_singleton_self _) hp
  | _ => simp [SamePart]

theorem applyCommand_updateKeys (c : Config) (s : State) (keys : Keys) :
    applyCommand c (.updateKeys keys) s = .next (s.setKeys keys, .done) := rfl

/-- Settles O31: whether the core is halted is not asked, and the one write of the key state leaves every other part. -/
theorem updateKeysReplacesEveryKey : Obligations.UpdateKeysReplacesEveryKey := by
  refine fun c s keys => ⟨_, applyCommand_updateKeys c s keys, fun k hk => ?_, s.setKeys_onlyChanges_keys keys⟩
  rw [State.setKeys_key]

end Sys2Proof.Machine
end

section
/-! SUPPORT. What LOAD answers to a program that fits and to one that does not (70_reset_and_hazards.md R244). -/

namespace Sys2Proof.Machine

/-- A program longer than the program region is refused with the state as it was. -/
theorem applyCommand_load_of_maxProgram_lt (c : Config) (s : State) {bytes : List Byte}
    (h : Config.maxProgram < bytes.length) : applyCommand c (.load bytes) s = .next (s, .loadError) := if_pos h

/-- A program that fits is stored from 0x200 onward. -/
theorem applyCommand_load_of_length_le (c : Config) (s : State) {bytes : List Byte}
    (h : bytes.length ≤ Config.maxProgram) :
    applyCommand c (.load bytes) s = .next (s.store Config.programBase bytes, .ok) := if_neg h.not_gt

/-- Settles O26: a program too long is refused as it stands, and one that fits is a single store, whose bytes read
back. -/
theorem loadCopiesTheProgram : Obligations.LoadCopiesTheProgram := fun c s _ =>
  ⟨applyCommand_load_of_maxProgram_lt c s,
    fun fits => ⟨_, applyCommand_load_of_length_le c s fits, fun _ _ => s.load_store_inside⟩⟩

end Sys2Proof.Machine
end

section
/-! SUPPORT. The decoder and the encoder as each other's inverse: decoding gives an encoded instruction back, and
encoding gives a decoded word back but for the field the shifts ignore (30_encoding.md R81 to R86). -/

namespace Sys2Proof

/-! ### Decoding what was encoded -/

theorem decode_encode (i : Instr) : decode (encode i) = some i := by
  cases i with
  | nop | cls | ret => decide
  | jp | call | ldI | jpV0 | seByte | sneByte | ldByte | addByte | rnd => simp [encode, decode]
  | seReg | sneReg | drw => simp [encode, decode]
  | ldReg | or | and | xor | addReg | sub | shr | subn | shl => simp [encode, decode, decodeAlu]
  | skp | sknp => simp [encode, decode, decodeKeySkip]
  | ldFromDt | ldKey | ldToDt | ldToSt | addI | ldFont | ldBcd | storeRegs | loadRegs =>
    simp [encode, decode, decodeMisc]

/-- The byte decoder reads a word's two bytes as the word and leaves what follows (20_memory.md R54). -/
theorem decodeBytes_bytesOfWord_append {op : Word} {i : Instr} (h : decode op = some i) (rest : List Byte) :
    decodeBytes (bytesOfWord op ++ rest) = .ok (i, rest) := by
  simp only [bytesOfWord, List.cons_append, List.nil_append, decodeBytes, wordOfBytes_bytes, h]

/-- Settles O8: every layout's fields are read back, and they choose the same branch of the decoder. -/
theorem decodeOfEncode : Obligations.DecodeOfEncode := fun i =>
  ⟨decode_encode i, decodeBytes_bytesOfWord_append (decode_encode i)⟩

/-! ### Encoding what was decoded -/

theorem packNnn_eq_of_d1 {op : Word} {d : Nibble} (hd : fieldD1 op = d) : packNnn d (fieldNnn op) = op := by
  rw [← hd, packNnn_fields]

theorem packXKk_eq_of_d1 {op : Word} {d : Nibble} (hd : fieldD1 op = d) :
    packXKk d (fieldX op) (fieldKk op) = op := by
  rw [← hd, packXKk_fields]

theorem packXYN_eq_of_d1 {op : Word} {d : Nibble} (hd : fieldD1 op = d) :
    packXYN d (fieldX op) (fieldY op) (fieldN op) = op := by
  rw [← hd, packXYN_fields]

theorem packXYN_eq_of_d1_d4 {op : Word} {d n : Nibble} (hd : fieldD1 op = d) (hn : fieldN op = n) :
    packXYN d (fieldX op) (fieldY op) n = op := by
  rw [← hd, ← hn, packXYN_fields]

/-- Mask 0xFF0F clears the field `y`. -/
theorem and_FF0F (op : Word) : op &&& 0xFF0F#16 = packXYN (fieldD1 op) (fieldX op) 0 (fieldN op) := by
  apply BitVec.eq_of_getLsbD_eq
  intro i hi
  simp only [packXYN, BitVec.getLsbD_append, BitVec.getLsbD_and]
  interval_cases i <;> simp [fieldD1, fieldX, fieldN]

theorem encode_of_decodeSystem {op : Word} {i : Instr} (h : decodeSystem op = some i) : encode i = op := by
  unfold decodeSystem at h
  split_ifs at h with hw hw hw <;> (cases h; rw [hw]; rfl)

/-- The shifts are the two rows of `d1 = 8` that do not read `y` (30_encoding.md R85). -/
theorem encode_of_decodeAlu {x y : Reg} {n : Nibble} {i : Instr} (h : decodeAlu x y n = some i)
    (hs : ∀ x, i ≠ .shr x ∧ i ≠ .shl x) : encode i = packXYN 0x8 x y n := by
  have hr : n ≠ 0x6 := by rintro rfl; cases h; exact (hs x).1 rfl
  have hl : n ≠ 0xE := by rintro rfl; cases h; exact (hs x).2 rfl
  unfold decodeAlu at h
  split_ifs at h with hn hn hn hn hn hn hn <;> (cases h; rw [hn]; rfl)

theorem encode_of_decodeKeySkip {x : Reg} {kk : Byte} {i : Instr} (h : decodeKeySkip x kk = some i) :
    encode i = packXKk 0xE x kk := by
  unfold decodeKeySkip at h
  split_ifs at h with hk hk <;> (cases h; rw [hk]; rfl)

theorem encode_of_decodeMisc {x : Reg} {kk : Byte} {i : Instr} (h : decodeMisc x kk = some i) :
    encode i = packXKk 0xF x kk := by
  unfold decodeMisc at h
  split_ifs at h with hk hk hk hk hk hk hk hk hk <;> (cases h; rw [hk]; rfl)

/-- Every instruction but the shifts encodes to the word it was decoded from (30_encoding.md R85). -/
theorem encode_of_decode {op : Word} {i : Instr} (h : decode op = some i) (hs : ∀ x, i ≠ .shr x ∧ i ≠ .shl x) :
    encode i = op := by
  unfold decode at h
  obtain ⟨-, h⟩ | ⟨h0, h⟩ := ite_eq_iff.1 h
  · exact encode_of_decodeSystem h
  obtain ⟨hd, h⟩ | ⟨h1, h⟩ := ite_eq_iff.1 h
  · cases h; exact packNnn_eq_of_d1 hd
  obtain ⟨hd, h⟩ | ⟨h2, h⟩ := ite_eq_iff.1 h
  · cases h; exact packNnn_eq_of_d1 hd
  obtain ⟨hd, h⟩ | ⟨h3, h⟩ := ite_eq_iff.1 h
  · cases h; exact packXKk_eq_of_d1 hd
  obtain ⟨hd, h⟩ | ⟨h4, h⟩ := ite_eq_iff.1 h
  · cases h; exact packXKk_eq_of_d1 hd
  obtain ⟨hd, h⟩ | ⟨h5, h⟩ := ite_eq_iff.1 h
  · obtain ⟨hn, h⟩ | ⟨-, h⟩ := ite_eq_iff.1 h
    · cases h; exact packXYN_eq_of_d1_d4 hd hn
    · cases h
  obtain ⟨hd, h⟩ | ⟨h6, h⟩ := ite_eq_iff.1 h
  · cases h; exact packXKk_eq_of_d1 hd
  obtain ⟨hd, h⟩ | ⟨h7, h⟩ := ite_eq_iff.1 h
  · cases h; exact packXKk_eq_of_d1 hd
  obtain ⟨hd, h⟩ | ⟨h8, h⟩ := ite_eq_iff.1 h
  · rw [encode_of_decodeAlu h hs, packXYN_eq_of_d1 hd]
  obtain ⟨hd, h⟩ | ⟨h9, h⟩ := ite_eq_iff.1 h
  · obtain ⟨hn, h⟩ | ⟨-, h⟩ := ite_eq_iff.1 h
    · cases h; exact packXYN_eq_of_d1_d4 hd hn
    · cases h
  obtain ⟨hd, h⟩ | ⟨hA, h⟩ := ite_eq_iff.1 h
  · cases h; exact packNnn_eq_of_d1 hd
  obtain ⟨hd, h⟩ | ⟨hB, h⟩ := ite_eq_iff.1 h
  · cases h; exact packNnn_eq_of_d1 hd
  obtain ⟨hd, h⟩ | ⟨hC, h⟩ := ite_eq_iff.1 h
  · cases h; exact packXKk_eq_of_d1 hd
  obtain ⟨hd, h⟩ | ⟨hD, h⟩ := ite_eq_iff.1 h
  · cases h; exact packXYN_eq_of_d1 hd
  obtain ⟨hd, h⟩ | ⟨hE, h⟩ := ite_eq_iff.1 h
  · rw [encode_of_decodeKeySkip h, packXKk_eq_of_d1 hd]
  have hF : fieldD1 op = 0xF := by bv_omega
  rw [encode_of_decodeMisc h, packXKk_eq_of_d1 hF]

/-! ### The shifts, whose field `y` is not read -/

theorem decode_of_shr_row {op : Word} (hd : fieldD1 op = 0x8) (hn : fieldN op = 0x6) :
    decode op = some (.shr (fieldX op)) := by
  simp [decode, decodeAlu, hd, hn]

theorem decode_of_shl_row {op : Word} (hd : fieldD1 op = 0x8) (hn : fieldN op = 0xE) :
    decode op = some (.shl (fieldX op)) := by
  simp [decode, decodeAlu, hd, hn]

/-- A decoded SHR encodes to its word with `y` zeroed (30_encoding.md R85). -/
theorem encode_shr_of_decode {op : Word} {x : Reg} (h : decode op = some (.shr x)) :
    encode (.shr x) = op &&& 0xFF0F := by
  obtain ⟨hd, hn⟩ := (Pattern.covers_F00F op 0x8 0x6).1 (covers_of_decode h)
  obtain rfl : fieldX op = x := by simpa using (decode_of_shr_row hd hn).symm.trans h
  refine Eq.trans ?_ (and_FF0F op).symm
  rw [hd, hn]
  rfl

/-- A decoded SHL encodes to its word with `y` zeroed (30_encoding.md R85). -/
theorem encode_shl_of_decode {op : Word} {x : Reg} (h : decode op = some (.shl x)) :
    encode (.shl x) = op &&& 0xFF0F := by
  obtain ⟨hd, hn⟩ := (Pattern.covers_F00F op 0x8 0xE).1 (covers_of_decode h)
  obtain rfl : fieldX op = x := by simpa using (decode_of_shl_row hd hn).symm.trans h
  refine Eq.trans ?_ (and_FF0F op).symm
  rw [hd, hn]
  rfl

/-- Settles O9: the rows of SHR and SHL do not fix `y`, and every other instruction holds all of its word. -/
theorem onlyShiftsIgnoreAField : Obligations.OnlyShiftsIgnoreAField := by
  refine ⟨fun x y => ⟨?_, ?_⟩, fun op i h => ?_⟩
  · simpa using decode_of_shr_row (op := packXYN 0x8 x y 0x6) (by simp) (by simp)
  · simpa using decode_of_shl_row (op := packXYN 0x8 x y 0xE) (by simp) (by simp)
  by_cases hr : ∃ x, i = .shr x
  · obtain ⟨x, rfl⟩ := hr
    exact .inl ⟨.inl ⟨x, rfl⟩, encode_shr_of_decode h⟩
  by_cases hl : ∃ x, i = .shl x
  · obtain ⟨x, rfl⟩ := hl
    exact .inl ⟨.inr ⟨x, rfl⟩, encode_shl_of_decode h⟩
  have hs : ∀ x, i ≠ .shr x ∧ i ≠ .shl x := fun x => ⟨fun e => hr ⟨x, e⟩, fun e => hl ⟨x, e⟩⟩
  exact .inr ⟨hs, encode_of_decode h hs⟩

/-- Settles O10: each word is evaluated by the decoder. -/
theorem sampleWordsDecode : Obligations.SampleWordsDecode := by
  unfold Obligations.SampleWordsDecode
  decide

/-! ### The rows of the table are disjoint -/

/-- Two rows that cover one word agree on the bits both fix (30_encoding.md R84). -/
theorem Pattern.values_agree_of_covers {p q : Pattern} {op : Word} (hp : p.covers op = true) (hq : q.covers op = true) :
    p.value &&& q.mask = q.value &&& p.mask := by
  rw [← (Pattern.covers_iff p op).1 hp, ← (Pattern.covers_iff q op).1 hq, BitVec.and_assoc, BitVec.and_assoc,
    BitVec.and_comm p.mask]

/-- No two rows of the table agree on the bits both fix (30_encoding.md R84). -/
theorem opcodePatterns_eq_of_values_agree : ∀ p ∈ opcodePatterns, ∀ q ∈ opcodePatterns,
    p.value &&& q.mask = q.value &&& p.mask → p = q := by
  decide

/-- Settles O6: a word under two rows would make them agree on the bits both fix, and no two rows do. -/
theorem atMostOnePatternCovers : Obligations.AtMostOnePatternCovers :=
  ⟨rfl, by decide, fun _ p q hp hq cp cq =>
    opcodePatterns_eq_of_values_agree p hp q hq (Pattern.values_agree_of_covers cp cq)⟩

end Sys2Proof
end

section
/-! SUPPORT. The words the decoder refuses are the table's, and how many they are (30_encoding.md R87). -/

namespace Sys2Proof

open Sys2Proof.Machine

/-! ### What each decoder refuses -/

theorem ite_some_eq_none_iff {α : Type} {c : Prop} [Decidable c] {a : α} {o : Option α} :
    (if c then some a else o) = none ↔ ¬ c ∧ o = none := by
  by_cases h : c <;> simp [h]

theorem decodeSystem_eq_none_iff (op : Word) :
    decodeSystem op = none ↔ op.toNat ≠ 0x0000 ∧ op.toNat ≠ 0x00E0 ∧ op.toNat ≠ 0x00EE := by
  simp [decodeSystem, ite_some_eq_none_iff, ← BitVec.toNat_inj]

theorem decodeAlu_eq_none_iff (x y : Reg) (n : Nibble) :
    decodeAlu x y n = none ↔ n.toNat ∈ [0x8, 0x9, 0xA, 0xB, 0xC, 0xD, 0xF] := by
  have hn := n.isLt
  simp only [decodeAlu, ite_some_eq_none_iff, ← BitVec.toNat_inj, List.mem_cons, List.not_mem_nil,
    BitVec.reduceToNat, eq_self, and_true, or_false]
  omega

theorem decodeKeySkip_eq_none_iff (x : Reg) (kk : Byte) :
    decodeKeySkip x kk = none ↔ kk.toNat ∉ [0x9E, 0xA1] := by
  simp [decodeKeySkip, ite_some_eq_none_iff, ← BitVec.toNat_inj]

theorem decodeMisc_eq_none_iff (x : Reg) (kk : Byte) :
    decodeMisc x kk = none ↔ kk.toNat ∉ [0x07, 0x0A, 0x15, 0x18, 0x1E, 0x29, 0x33, 0x55, 0x65] := by
  simp [decodeMisc, ite_some_eq_none_iff, ← BitVec.toNat_inj]

/-- The decoder refuses exactly the words of the table: one line of the table for each `d1` (30_encoding.md R87). -/
theorem decode_eq_none_iff_illegalWord (op : Word) : decode op = none ↔ IllegalWord op := by
  have hd := toNat_fieldD1 op
  have hn : fieldN op = 0#4 ↔ op.toNat % 0x10 = 0 := by rw [← toNat_fieldN, ← BitVec.toNat_inj]; rfl
  unfold decode IllegalWord
  generalize fieldD1 op = d at hd
  rw [← hd]
  obtain ⟨k, rfl⟩ : ∃ k : Fin 16, d = BitVec.ofFin k := ⟨d.toFin, rfl⟩
  clear hd
  fin_cases k <;>
    simp [hn, decodeSystem_eq_none_iff, decodeAlu_eq_none_iff, decodeKeySkip_eq_none_iff, decodeMisc_eq_none_iff,
      toNat_fieldN, toNat_fieldKk]

/-! ### How many they are -/

theorem length_filter_range (p : Nat → Bool) (n : Nat) :
    ((List.range n).filter p).length = Nat.count (fun k => p k = true) n := by
  simp [Nat.count, List.countP_eq_length_filter]

/-- A count over blocks of equal length is the sum of the blocks' counts. -/
theorem count_mul_eq_sum (p : Nat → Prop) [DecidablePred p] (len n : Nat) :
    Nat.count p (len * n) = ∑ j ∈ Finset.range n, Nat.count (fun k => p (len * j + k)) len := by
  induction n with
  | zero => simp
  | succ n ih => rw [Nat.mul_succ, Nat.count_add, ih, Finset.sum_range_succ]

/-- A count over whole periods is the period's count as often. -/
theorem count_mul_of_periodic {p : Nat → Prop} [DecidablePred p] {len : Nat} (h : ∀ j k, p (len * j + k) ↔ p k)
    (n : Nat) : Nat.count p (len * n) = n * Nat.count p len := by
  simp [count_mul_eq_sum, h]

theorem count_mem_of_nodup {l : List Nat} (hl : l.Nodup) {m : Nat} (hm : ∀ k ∈ l, k < m) :
    Nat.count (fun k => k ∈ l) m = l.length := by
  rw [Nat.count_eq_card_filter_range, ← List.toFinset_card_of_nodup hl]
  congr 1
  ext k
  simpa using hm k

/-- The numbers below `m * n` whose remainder by `m` is none of the listed ones. -/
theorem count_mod_not_mem {l : List Nat} (hl : l.Nodup) {m : Nat} (hm : ∀ k ∈ l, k < m) (n : Nat) :
    Nat.count (fun k => k % m ∉ l) (m * n) = n * (m - l.length) := by
  have period : Nat.count (fun k => k % m ∉ l) m + l.length = m := by
    have small : ∀ k ∈ Finset.range m, (k % m ∉ l ↔ k ∉ l) := fun k hk => by
      rw [Nat.mod_eq_of_lt (Finset.mem_range.1 hk)]
    rw [← count_mem_of_nodup hl hm, Nat.count_eq_card_filter_range, Nat.count_eq_card_filter_range,
      Finset.filter_congr small, add_comm, Finset.card_filter_add_card_filter_not, Finset.card_range]
  rw [count_mul_of_periodic (fun j k => by rw [Nat.mul_add_mod])]
  congr 1
  omega

/-- The legal words with a given `d1`, by the remainder of their other bits: the modulus of the bits that tell them
apart, and the legal remainders (30_encoding.md R87). -/
def legalTails : Nat → Nat × List Nat
  | 0x0 => (0x1000, [0x0000, 0x00E0, 0x00EE])
  | 0x5 | 0x9 => (0x10, [0x0])
  | 0x8 => (0x10, [0x0, 0x1, 0x2, 0x3, 0x4, 0x5, 0x6, 0x7, 0xE])
  | 0xE => (0x100, [0x9E, 0xA1])
  | 0xF => (0x100, [0x07, 0x0A, 0x15, 0x18, 0x1E, 0x29, 0x33, 0x55, 0x65])
  | _ => (1, [0])

theorem legalTails_wf : ∀ d < 16, (legalTails d).2.Nodup ∧ (∀ k ∈ (legalTails d).2, k < (legalTails d).1) ∧
    (legalTails d).1 * (4096 / (legalTails d).1) = 4096 := by
  decide

theorem illegalWord_iff_legalTails {d k : Nat} (hd : d < 16) (hk : k < 4096) :
    IllegalWord (BitVec.ofNat 16 (4096 * d + k)) ↔ k % (legalTails d).1 ∉ (legalTails d).2 := by
  have h0 : (4096 * d + k) % 65536 = 4096 * d + k := by omega
  have h1 : (4096 * d + k) / 4096 = d := by omega
  have h2 : (4096 * d + k) % 16 = k % 16 := by omega
  have h3 : (4096 * d + k) % 256 = k % 256 := by omega
  simp only [IllegalWord, BitVec.toNat_ofNat, Nat.reducePow, h0, h1, h2, h3]
  interval_cases d <;> simp [legalTails] <;> omega

/-- The refused words with a given `d1`. -/
theorem count_refused_block {d : Nat} (hd : d < 16) :
    Nat.count (fun k => (decode (BitVec.ofNat 16 (4096 * d + k))).isNone = true) 4096 =
      4096 / (legalTails d).1 * ((legalTails d).1 - (legalTails d).2.length) := by
  obtain ⟨nodup, below, whole⟩ := legalTails_wf d hd
  rw [← count_mod_not_mem nodup below, whole]
  refine le_antisymm (Nat.count_mono_left fun k hk => ?_) (Nat.count_mono_left fun k hk => ?_) <;>
    simp [decode_eq_none_iff_illegalWord, illegalWord_iff_legalTails hd hk]

/-- Of 65536 words the decoder refuses 21581 (30_encoding.md R87). -/
theorem length_refused_words :
    ((List.range 65536).filter (fun w => (decode (BitVec.ofNat 16 w)).isNone)).length = 21581 := by
  rw [length_filter_range, show 65536 = 4096 * 16 from rfl, count_mul_eq_sum]
  calc ∑ d ∈ Finset.range 16, Nat.count (fun k => (decode (BitVec.ofNat 16 (4096 * d + k))).isNone = true) 4096
      = ∑ d ∈ Finset.range 16, 4096 / (legalTails d).1 * ((legalTails d).1 - (legalTails d).2.length) :=
        Finset.sum_congr rfl fun d hd => count_refused_block (Finset.mem_range.1 hd)
    _ = 21581 := by decide

end Sys2Proof
end

section
/-! SUPPORT. What each named update of the state leaves, as a frame, and how frames combine (10_state.md R20). -/

namespace Sys2Proof.Machine

/-! ### Frames -/

theorem SamePart.trans {s t u : State} {p : Part} (h : SamePart s t p) (h' : SamePart t u p) : SamePart s u p := by
  cases p <;> simp_all [SamePart]

theorem OnlyChanges.refl (parts : List Part) (s : State) : OnlyChanges parts s s := by
  intro p _
  cases p <;> simp [SamePart]

theorem OnlyChanges.mono {parts more : List Part} {s t : State} (h : OnlyChanges parts s t) (sub : parts ⊆ more) :
    OnlyChanges more s t :=
  fun p hp => h p fun hp' => hp (sub hp')

theorem OnlyChanges.trans {parts : List Part} {s t u : State} (h : OnlyChanges parts s t)
    (h' : OnlyChanges parts t u) : OnlyChanges parts s u :=
  fun p hp => (h p hp).trans (h' p hp)

/-! ### The updates as frames -/

theorem State.setI_onlyChanges_index (s : State) (w : Word) : OnlyChanges [.index] s (s.setI w) := by
  intro p hp
  cases p <;> simp_all [SamePart]

theorem State.setSt_onlyChanges_timers (s : State) (b : Byte) : OnlyChanges [.timers] s (s.setSt b) := by
  intro p hp
  cases p <;> simp_all [SamePart]

theorem State.store_onlyChanges_memory (s : State) (a : Nat) (bytes : List Byte) :
    OnlyChanges [.memory] s (s.store a bytes) := by
  intro p hp
  cases p <;> simp_all [SamePart]

theorem State.setRegsThrough_onlyChanges_regs (s : State) (x : Reg) (bytes : Nat → Byte) :
    OnlyChanges [.regs] s (s.setRegsThrough x bytes) := by
  intro p hp
  cases p <;> simp_all [SamePart]

theorem State.push_onlyChanges_stack (s : State) (w : Word) : OnlyChanges [.stack] s (s.push w) := by
  intro p hp
  cases p <;> simp_all [SamePart]

theorem State.drop_onlyChanges_stack (s : State) : OnlyChanges [.stack] s s.drop := by
  intro p hp
  cases p <;> simp_all [SamePart]

theorem drawRandom_onlyChanges (rnd : Byte) (x : Reg) (kk : Byte) (s : State) :
    OnlyChanges [.regs, .draws] s (drawRandom rnd x kk s) := by
  intro p hp
  cases p <;> simp_all [SamePart]

theorem State.raise_onlyChanges_faults (s : State) (f : Fault) (a op : Word) :
    OnlyChanges [.faults] s (s.raise f a op) := by
  intro p hp
  cases p <;> simp_all [SamePart]

theorem State.ticked_onlyChanges_timers (s : State) : OnlyChanges [.timers] s s.ticked :=
  (s.setDt_onlyChanges_timers _).trans (State.setSt_onlyChanges_timers _ _)

theorem State.fetched_onlyChanges_pc (s : State) : OnlyChanges [.pc] s s.fetched := (s.setPc_writesPc _).2

/-! ### A push and a pop with the write of PC that follows -/

theorem State.push_setPc_onlyChanges (s : State) (w pc : Word) : OnlyChanges [.stack, .pc] s ((s.push w).setPc pc) :=
  ((s.push_onlyChanges_stack w).mono (by simp)).trans (((s.push w).setPc_writesPc pc).2.mono (by simp))

theorem State.drop_setPc_onlyChanges (s : State) (pc : Word) : OnlyChanges [.stack, .pc] s (s.drop.setPc pc) :=
  (s.drop_onlyChanges_stack.mono (by simp)).trans ((s.drop.setPc_writesPc pc).2.mono (by simp))

/-- A draw's writes: the framebuffer and the flag (43_draw.md R172). -/
theorem State.setFb_setReg_onlyChanges (s : State) (fb : Framebuffer) (x : Reg) (b : Byte) :
    OnlyChanges [.display, .regs] s ((s.setFb fb).setReg x b) :=
  ((s.setFb_onlyChanges_display fb).mono (by simp)).trans (((s.setFb fb).setReg_writesReg x b).2.2.mono (by simp))

end Sys2Proof.Machine
end

section
/-! SUPPORT. What the execute stage answers: a fault, exactly under an instruction's own condition, or else a completed
instruction in its frame (60_exceptions.md R201, R203, R206). Both are said of the STEP command's execute stage, of
which `exec` is the one with the free byte. -/

namespace Sys2Proof

/-- The fault an instruction raises in a state, by the condition its rule names (60_exceptions.md R201). -/
def Instr.faultIn : Instr → Machine.State → Option Machine.Fault
  | .ret, s => if 0 < s.sp.val then none else some .stackUnderflow
  | .call _, s => if s.sp.val < 16 then none else some .stackOverflow
  | .drw _ _ n, s => if Machine.addressesValid s.indexAddr n.toNat then none else some .memoryBounds
  | .ldBcd _, s => if Machine.addressesValid s.indexAddr 3 then none else some .memoryBounds
  | .storeRegs x, s | .loadRegs x, s =>
    if Machine.addressesValid s.indexAddr (x.toNat + 1) then none else some .memoryBounds
  | .skp x, s | .sknp x, s => if (s.reg x).toNat < 16 then none else some .keyIndex
  | _, _ => none

/-- The frame of an instruction that completes: its parts, without the fault registers, its registers, its bytes. -/
structure Instr.Completes (i : Instr) (s t : Machine.State) : Prop where
  parts : Machine.OnlyChanges i.mayChange s t
  faults : Machine.SamePart s t .faults
  regs : ∀ r, i.mayWrite r = false → t.reg r = s.reg r
  bytes : ∀ a, ¬ i.storesTo s a → t.load a = s.load a

theorem Instr.Completes.halted {i : Instr} {s t : Machine.State} (h : i.Completes s t) : t.halted = s.halted :=
  h.faults.1

end Sys2Proof

namespace Sys2Proof.Machine

/-! ### The execute stage with a byte and with the free byte -/

/-- `exec` is the STEP command's execute stage with the free byte (60_exceptions.md R220; log entry 1). -/
theorem exec_eq_execWith (i : Instr) (s : State) : exec i s = execWith (Config.rnd s.draws) i s := by
  cases i <;> rfl

/-- Only Cxkk uses the byte (60_exceptions.md R220). -/
theorem execWith_eq_exec {i : Instr} (h : ∀ x kk, i ≠ .rnd x kk) (rnd : Byte) (s : State) :
    execWith rnd i s = exec i s := by
  cases i with
  | rnd x kk => exact absurd rfl (h x kk)
  | _ => rfl

/-! ### What the other instructions answer -/

theorem exec_or (x y : Reg) (s : State) : exec (.or x y) s = .next (s.setReg x (s.reg x ||| s.reg y)) := rfl

theorem exec_and (x y : Reg) (s : State) : exec (.and x y) s = .next (s.setReg x (s.reg x &&& s.reg y)) := rfl

theorem exec_xor (x y : Reg) (s : State) : exec (.xor x y) s = .next (s.setReg x (s.reg x ^^^ s.reg y)) := rfl

theorem exec_addReg (x y : Reg) (s : State) : exec (.addReg x y) s =
    .next (s.setResultAndFlag x (s.reg x + s.reg y) (carryFlag (s.reg x) (s.reg y))) := rfl

theorem exec_sub (x y : Reg) (s : State) : exec (.sub x y) s =
    .next (s.setResultAndFlag x (s.reg x - s.reg y) (noBorrowFlag (s.reg x) (s.reg y))) := rfl

theorem exec_subn (x y : Reg) (s : State) : exec (.subn x y) s =
    .next (s.setResultAndFlag x (s.reg y - s.reg x) (noBorrowFlag (s.reg y) (s.reg x))) := rfl

theorem exec_shr (x : Reg) (s : State) : exec (.shr x) s =
    .next (s.setResultAndFlag x (s.reg x >>> 1) (lowBitFlag (s.reg x))) := rfl

theorem exec_shl (x : Reg) (s : State) : exec (.shl x) s =
    .next (s.setResultAndFlag x (s.reg x <<< 1) (highBitFlag (s.reg x))) := rfl

theorem execWith_rnd (rnd : Byte) (x : Reg) (kk : Byte) (s : State) :
    execWith rnd (.rnd x kk) s = .next (drawRandom rnd x kk s) := rfl

theorem exec_ldToSt (x : Reg) (s : State) : exec (.ldToSt x) s = .next (s.setSt (s.reg x)) := rfl

theorem exec_ldI (nnn : Addr) (s : State) : exec (.ldI nnn) s = .next (s.setI (zextAddr nnn)) := rfl

theorem exec_addI (x : Reg) (s : State) : exec (.addI x) s = .next (s.setI (s.i + zextByte (s.reg x))) := rfl

theorem exec_ldFont (x : Reg) (s : State) : exec (.ldFont x) s = .next (s.setI (5 * zextByte (s.reg x))) := rfl

/-! ### What an instruction that can fault answers when it does not -/

theorem exec_ret {s : State} (h : 0 < s.sp.val) : exec .ret s = .next (s.drop.setPc s.top) := if_pos h

theorem exec_call {s : State} (nnn : Addr) (h : s.sp.val < 16) :
    exec (.call nnn) s = .next ((s.push s.pc).setPc (zextAddr nnn)) := if_pos h

theorem exec_drw {s : State} (x y : Reg) {n : Nibble} (h : addressesValid s.indexAddr n.toNat = true) :
    exec (.drw x y n) s = .next ((s.setFb (s.drawn x y n).1).setReg vf (flagByte (s.drawn x y n).2)) := if_pos h

theorem exec_ldBcd {s : State} (x : Reg) (h : addressesValid s.indexAddr 3 = true) :
    exec (.ldBcd x) s = .next (s.store s.indexAddr (bcdDigits (s.reg x))) := if_pos h

theorem exec_storeRegs {s : State} {x : Reg} (h : addressesValid s.indexAddr (x.toNat + 1) = true) :
    exec (.storeRegs x) s = .next (s.store s.indexAddr (s.regsThrough x)) := if_pos h

theorem exec_loadRegs {s : State} {x : Reg} (h : addressesValid s.indexAddr (x.toNat + 1) = true) :
    exec (.loadRegs x) s = .next (s.setRegsThrough x (fun j => s.load (s.indexAddr + j))) := if_pos h

theorem exec_skp {s : State} {x : Reg} (h : (s.reg x).toNat < 16) :
    exec (.skp x) s = .next (s.skipIf (s.keyDown (s.reg x))) := if_pos h

theorem exec_sknp {s : State} {x : Reg} (h : (s.reg x).toNat < 16) :
    exec (.sknp x) s = .next (s.skipIf (!s.keyDown (s.reg x))) := if_pos h

/-! ### Faults of the execute stage -/

theorem ite_none_some_eq_none_iff {α : Type} {c : Prop} [Decidable c] {a : α} :
    (if c then none else some a) = none ↔ c := by
  by_cases h : c <;> simp [h]

/-- An instruction whose condition holds raises its fault. -/
theorem execWith_of_faultIn {i : Instr} {s : State} {f : Fault} (h : i.faultIn s = some f) (rnd : Byte) :
    execWith rnd i s = raiseIn f i s := by
  cases i with
  | ret | call | drw | ldBcd | storeRegs | loadRegs | skp | sknp =>
    obtain ⟨-, h⟩ | ⟨hc, h⟩ := ite_eq_iff.1 h
    · cases h
    · cases h
      exact if_neg hc
  | _ => cases h

theorem exec_of_faultIn {i : Instr} {s : State} {f : Fault} (h : i.faultIn s = some f) : exec i s = raiseIn f i s := by
  rw [exec_eq_execWith, execWith_of_faultIn h]

/-- A faulting instruction takes its fault (60_exceptions.md R203, R206). -/
theorem exec_takesFault {i : Instr} {s : State} {f : Fault} (h : i.faultIn s = some f) :
    ∃ t, exec i s = .next t ∧ TakesFault f i s t := by
  rw [exec_of_faultIn h]
  exact raiseIn_takesFault f i s

/-- An instruction that can fault has the fault registers among the parts it may change. -/
theorem faults_mem_mayChange {i : Instr} {s : State} {f : Fault} (h : i.faultIn s = some f) :
    .faults ∈ i.mayChange := by
  cases i with
  | ret | call | drw | ldBcd | storeRegs | loadRegs | skp | sknp => simp [Instr.mayChange]
  | _ => cases h

/-! ### Completed instructions -/

/-- A frame that leaves the fault registers and memory, with what it says of registers. -/
theorem completes_of_regs {i : Instr} {s t : State} {parts : List Part} (h : OnlyChanges parts s t)
    (regs : ∀ r, i.mayWrite r = false → t.reg r = s.reg r) (sub : parts ⊆ i.mayChange := by simp [Instr.mayChange])
    (faults : .faults ∉ parts := by simp) (bytes : .memory ∉ parts := by simp) : i.Completes s t where
  parts := h.mono sub
  faults := h _ faults
  regs := regs
  bytes a _ := h _ bytes a

/-- A frame that leaves the registers too. -/
theorem completes_of_frame {i : Instr} {s t : State} {parts : List Part} (h : OnlyChanges parts s t)
    (sub : parts ⊆ i.mayChange := by simp [Instr.mayChange]) (faults : .faults ∉ parts := by simp)
    (bytes : .memory ∉ parts := by simp) (regs : .regs ∉ parts := by simp) : i.Completes s t :=
  completes_of_regs h (fun r _ => h _ regs r) sub faults bytes

theorem WritesReg.completes {i : Instr} {x : Reg} {b : Byte} {s t : State} (h : WritesReg x b s t)
    (dest : ∀ r, i.mayWrite r = false → r ≠ x := by simp [Instr.mayWrite])
    (sub : [.regs] ⊆ i.mayChange := by simp [Instr.mayChange]) : i.Completes s t :=
  have ⟨_, other, frame⟩ := h
  completes_of_regs frame (fun r hr => other r (dest r hr)) sub

theorem WritesResultAndFlag.completes {i : Instr} {x : Reg} {b f : Nat} {s t : State}
    (h : WritesResultAndFlag x b f s t)
    (dest : ∀ r, i.mayWrite r = false → r ≠ x ∧ r ≠ vf := by simp [Instr.mayWrite])
    (sub : [.regs] ⊆ i.mayChange := by simp [Instr.mayChange]) : i.Completes s t :=
  have ⟨_, _, other, frame⟩ := h
  completes_of_regs frame (fun r hr => other r (dest r hr).1 (dest r hr).2) sub

/-- A store completes an instruction that may store to every address stored to (20_memory.md R56). -/
theorem store_completes {i : Instr} {s : State} {a : Nat} {bytes : List Byte}
    (dest : ∀ k, ¬ i.storesTo s k → k < a ∨ a + bytes.length ≤ k)
    (sub : [.memory] ⊆ i.mayChange := by simp [Instr.mayChange]) : i.Completes s (s.store a bytes) where
  parts := (s.store_onlyChanges_memory a bytes).mono sub
  faults := s.store_onlyChanges_memory a bytes _ (by simp)
  regs r _ := s.store_reg a bytes r
  bytes k hk := s.load_store_outside bytes (dest k hk)

/-- An instruction whose fault condition fails completes in its frame. -/
theorem execWith_completes {i : Instr} {s : State} (h : i.faultIn s = none) (rnd : Byte) :
    ∃ t, execWith rnd i s = .next t ∧ i.Completes s t := by
  cases i with
  | nop => exact ⟨_, rfl, completes_of_frame (.refl [] s)⟩
  | cls => exact ⟨_, rfl, completes_of_frame (s.setFb_onlyChanges_display _)⟩
  | ret =>
    exact ⟨_, exec_ret (ite_none_some_eq_none_iff.1 h), completes_of_frame (s.drop_setPc_onlyChanges _)⟩
  | call nnn =>
    exact ⟨_, exec_call nnn (ite_none_some_eq_none_iff.1 h), completes_of_frame (s.push_setPc_onlyChanges _ _)⟩
  | jp | jpV0 => exact ⟨_, rfl, completes_of_frame (s.setPc_writesPc _).2⟩
  | seByte | sneByte | seReg | sneReg => exact ⟨_, rfl, completes_of_frame (s.skipIf_onlyChanges_pc _)⟩
  | skp x =>
    exact ⟨_, exec_skp (ite_none_some_eq_none_iff.1 h), completes_of_frame (s.skipIf_onlyChanges_pc _)⟩
  | sknp x =>
    exact ⟨_, exec_sknp (ite_none_some_eq_none_iff.1 h), completes_of_frame (s.skipIf_onlyChanges_pc _)⟩
  | ldByte x | addByte x | ldReg x | or x | and x | xor x | ldFromDt x =>
    exact ⟨_, rfl, (s.setReg_writesReg x _).completes⟩
  | addReg x | sub x | subn x | shr x | shl x =>
    exact ⟨_, rfl, (s.setResultAndFlag_writes x _ _).completes⟩
  | rnd x kk =>
    refine ⟨_, rfl, completes_of_regs (drawRandom_onlyChanges rnd x kk s) fun r hr => ?_⟩
    rw [drawRandom_reg, State.setReg_reg_other _ _ (by simpa [Instr.mayWrite] using hr)]
  | ldKey x =>
    cases hk : Keys.lowest s.key with
    | none =>
      exact ⟨_, exec_ldKey_of_lowest_none x hk, completes_of_frame (s.setPc_writesPc _).2⟩
    | some k =>
      exact ⟨_, exec_ldKey_of_lowest_some x hk, (s.setReg_writesReg x _).completes⟩
  | ldI | addI | ldFont => exact ⟨_, rfl, completes_of_frame (s.setI_onlyChanges_index _)⟩
  | ldToDt => exact ⟨_, rfl, completes_of_frame (s.setDt_onlyChanges_timers _)⟩
  | ldToSt => exact ⟨_, rfl, completes_of_frame (s.setSt_onlyChanges_timers _)⟩
  | drw x y n =>
    refine ⟨_, exec_drw x y (ite_none_some_eq_none_iff.1 h),
      completes_of_regs (s.setFb_setReg_onlyChanges _ _ _) fun r hr => ?_⟩
    rw [State.setReg_reg_other _ _ (by simpa [Instr.mayWrite] using hr), State.setFb_reg]
  | ldBcd x =>
    refine ⟨_, exec_ldBcd x (ite_none_some_eq_none_iff.1 h), store_completes fun k hk => ?_⟩
    simp only [Instr.storesTo, bcdDigits, List.length_cons, List.length_nil] at hk ⊢
    omega
  | storeRegs x =>
    refine ⟨_, exec_storeRegs (ite_none_some_eq_none_iff.1 h), store_completes fun k hk => ?_⟩
    simp only [Instr.storesTo, State.regsThrough_length] at hk ⊢
    omega
  | loadRegs x =>
    refine ⟨_, exec_loadRegs (ite_none_some_eq_none_iff.1 h),
      completes_of_regs (s.setRegsThrough_onlyChanges_regs _ _) fun r hr => ?_⟩
    rw [State.setRegsThrough_reg, if_neg (by simpa [Instr.mayWrite] using hr)]

end Sys2Proof.Machine
end

section
/-! SUPPORT. What holds of every instruction's execute stage: it answers, it stays in its frame, VF changes as a flag or
a destination, and ST is not read (10_state.md R20 to R33). -/

namespace Sys2Proof.Machine

/-- The execute stage answers a next state: a taken fault, or the completed instruction (60_exceptions.md R224). -/
theorem execWith_answers (rnd : Byte) (i : Instr) (s : State) : ∃ t, execWith rnd i s = .next t := by
  cases h : i.faultIn s with
  | some f => exact ⟨_, execWith_of_faultIn h rnd⟩
  | none =>
    obtain ⟨t, ht, -⟩ := execWith_completes h rnd
    exact ⟨t, ht⟩

/-- What an answered execute stage did: it raised a fault or it completed. -/
theorem execWith_cases {rnd : Byte} {i : Instr} {s t : State} (h : execWith rnd i s = .next t) :
    (∃ f, i.faultIn s = some f ∧ t = s.raise f (s.pc - 2) (encode i)) ∨ (i.faultIn s = none ∧ i.Completes s t) := by
  cases hf : i.faultIn s with
  | some f =>
    rw [execWith_of_faultIn hf] at h
    cases h
    exact .inl ⟨f, rfl, rfl⟩
  | none =>
    obtain ⟨t', ht, hc⟩ := execWith_completes hf rnd
    rw [h] at ht
    cases ht
    exact .inr ⟨rfl, hc⟩

/-- Settles O16: a fault writes the fault registers alone, and a completed instruction stays in its frame. -/
theorem frameOfEveryInstruction : Obligations.FrameOfEveryInstruction := by
  intro i s t h
  rw [exec_eq_execWith] at h
  obtain ⟨f, hf, rfl⟩ | ⟨-, hc⟩ := execWith_cases h
  · exact ⟨(s.raise_onlyChanges_faults f _ _).mono (by simpa using faults_mem_mayChange hf),
      fun r _ => s.raise_reg f _ _ r, fun a _ => s.raise_load f _ _ a⟩
  · exact ⟨hc.parts, hc.regs, hc.bytes⟩

/-- The instructions that may write VF (10_state.md R23). -/
theorem flag_or_destination_of_mayWrite_vf {i : Instr} (h : i.mayWrite vf = true) :
    (∃ x y, i = .addReg x y ∨ i = .sub x y ∨ i = .subn x y) ∨ (∃ x, i = .shr x ∨ i = .shl x) ∨
    (∃ x y n, i = .drw x y n) ∨
    (∃ kk, i = .ldByte vf kk ∨ i = .addByte vf kk ∨ i = .rnd vf kk) ∨
    (∃ y, i = .ldReg vf y ∨ i = .or vf y ∨ i = .and vf y ∨ i = .xor vf y) ∨
    i = .ldFromDt vf ∨ i = .ldKey vf ∨ i = .loadRegs vf := by
  cases i with
  | ldByte x | addByte x | rnd x | ldReg x | or x | and x | xor x | ldFromDt x | ldKey x =>
    obtain rfl : vf = x := by simpa [Instr.mayWrite] using h
    simp
  | addReg | sub | subn | shr | shl | drw => simp
  | loadRegs x =>
    have hx : vf.toNat ≤ x.toNat := by simpa [Instr.mayWrite] using h
    obtain rfl : x = vf := BitVec.eq_of_toNat_eq (Nat.le_antisymm (Nat.le_of_lt_succ x.isLt) hx)
    simp
  | _ => simp [Instr.mayWrite] at h

/-- Settles O17: an instruction that may not write VF leaves it, by its frame. -/
theorem vfChangesOnlyAsFlagOrDestination : Obligations.VfChangesOnlyAsFlagOrDestination := by
  intro i s t h hvf
  obtain ⟨-, regs, -⟩ := frameOfEveryInstruction i s t h
  refine flag_or_destination_of_mayWrite_vf (Bool.eq_true_of_not_eq_false fun hw => hvf (regs vf hw))

/-! ### The sound timer -/

/-- An outcome with its next state's ST replaced. -/
def withSt (b : Byte) : Host.Outcome State Fault Refusal → Host.Outcome State Fault Refusal
  | .next t => .next (t.setSt b)
  | .fault f => .fault f
  | .refused r => .refused r

theorem State.skipIf_setSt (s : State) (b : Byte) (c : Bool) : (s.setSt b).skipIf c = (s.skipIf c).setSt b := by
  cases c <;> rfl

/-- Every instruction but Fx18 runs the same with another ST (10_state.md R30): neither its condition nor its writes
look at ST. -/
theorem exec_setSt {i : Instr} (h : ∀ x, i ≠ .ldToSt x) (s : State) (b : Byte) :
    exec i (s.setSt b) = withSt b (exec i s) := by
  cases i with
  | ldToSt x => exact absurd rfl (h x)
  | ret | call | drw | ldBcd | storeRegs | loadRegs | skp | sknp =>
    simp only [exec, execRet, execCall, execDrw, execLdBcd, execStoreRegs, execLoadRegs, execSkp, execSknp,
      apply_ite (withSt b), State.skipIf_setSt]
    rfl
  | seByte | sneByte | seReg | sneReg =>
    exact congrArg Host.Outcome.next (s.skipIf_setSt b _)
  | ldKey x =>
    cases hk : Keys.lowest s.key with
    | none => rw [exec_ldKey_of_lowest_none x hk, exec_ldKey_of_lowest_none (s := s.setSt b) x hk]; rfl
    | some k => rw [exec_ldKey_of_lowest_some x hk, exec_ldKey_of_lowest_some (s := s.setSt b) x hk]; rfl
  | _ => rfl

/-- Settles O19: another ST comes through every instruction but the one that overwrites it. -/
theorem soundTimerIsNeverRead : Obligations.SoundTimerIsNeverRead := by
  intro i s t b h
  refine ⟨fun hi => by rw [exec_setSt hi, h]; rfl, ?_⟩
  rintro x rfl
  exact h

end Sys2Proof.Machine
end

section
/-! SUPPORT. What a STEP does: whether and how it faults, said once, and from it the statements about fetch, decode and
faults (20_memory.md R53; 60_exceptions.md R201 to R207, R224). -/

namespace Sys2Proof.Machine

/-! ### The fault of a STEP -/

/-- The fault a STEP of a running core raises, if any (60_exceptions.md R201). -/
def State.faultOnStep (s : State) : Option Fault :=
  if 0xFFE < s.pc.toNat then some .fetchError
  else
    match decode (s.wordAt s.pc.toNat) with
    | none => some .unimplementedOpcode
    | some i => i.faultIn s

/-- The word a fault records: none was fetched where fetch failed (60_exceptions.md R203). -/
def State.recordedWord (s : State) (f : Fault) : Word := if f = .fetchError then 0 else s.wordAt s.pc.toNat

/-- The state a faulting STEP leaves: PC is advanced unless fetch failed (60_exceptions.md R206). -/
def State.faulted (s : State) (f : Fault) : State :=
  (if f = .fetchError then s else s.fetched).raise f s.pc (s.recordedWord f)

theorem faultOnStep_of_pc_gt {s : State} (h : 0xFFE < s.pc.toNat) : s.faultOnStep = some .fetchError := if_pos h

theorem faultOnStep_of_decode_none {s : State} (hp : s.pc.toNat ≤ 0xFFE) (hd : decode (s.wordAt s.pc.toNat) = none) :
    s.faultOnStep = some .unimplementedOpcode := by
  simp only [State.faultOnStep, hp.not_gt, if_false, hd]

theorem faultOnStep_of_nextIs {s : State} {i : Instr} (h : NextIs s i) : s.faultOnStep = i.faultIn s := by
  obtain ⟨hp, hd⟩ := h
  simp only [State.faultOnStep, hp.not_gt, if_false, hd]

/-- What a STEP finds: a PC it cannot fetch from, a word that is no instruction, or an instruction
(60_exceptions.md R224). -/
theorem step_finds (s : State) :
    0xFFE < s.pc.toNat ∨ (s.pc.toNat ≤ 0xFFE ∧ decode (s.wordAt s.pc.toNat) = none) ∨ ∃ i, NextIs s i := by
  by_cases hp : 0xFFE < s.pc.toNat
  · exact .inl hp
  cases hd : decode (s.wordAt s.pc.toNat) with
  | none => exact .inr (.inl ⟨Nat.le_of_not_gt hp, rfl⟩)
  | some i => exact .inr (.inr ⟨i, Nat.le_of_not_gt hp, hd⟩)

/-- Fetch does not touch what an instruction's fault condition reads. -/
theorem faultIn_fetched (i : Instr) (s : State) : i.faultIn s.fetched = i.faultIn s := by
  cases i <;> rfl

/-- A faulting instruction's encoding is the word it was decoded from: the shifts do not fault (log entry 4). -/
theorem encode_of_faultIn {op : Word} {i : Instr} {s : State} {f : Fault} (hd : decode op = some i)
    (hf : i.faultIn s = some f) : encode i = op :=
  encode_of_decode hd fun _ => ⟨by rintro rfl; (cases hf), by rintro rfl; (cases hf)⟩

theorem faultIn_ne_fetchError {i : Instr} {s : State} : i.faultIn s ≠ some .fetchError := by
  cases i with
  | ret | call | drw | ldBcd | storeRegs | loadRegs | skp | sknp => simp [Instr.faultIn]
  | _ => exact nofun

theorem faultIn_ne_unimplementedOpcode {i : Instr} {s : State} : i.faultIn s ≠ some .unimplementedOpcode := by
  cases i with
  | ret | call | drw | ldBcd | storeRegs | loadRegs | skp | sknp => simp [Instr.faultIn]
  | _ => exact nofun

/-- An instruction that faults in a STEP leaves the faulted state: its address is PC before fetch, its word the fetched
one (60_exceptions.md R203). -/
theorem execWith_fetched_of_faultIn {s : State} {i : Instr} {f : Fault} (h : NextIs s i) (hf : i.faultIn s = some f)
    (rnd : Byte) : execWith rnd i s.fetched = .next (s.faulted f) := by
  have hne : f ≠ .fetchError := by rintro rfl; exact faultIn_ne_fetchError hf
  rw [execWith_of_faultIn ((faultIn_fetched i s).trans hf), raiseIn, encode_of_faultIn h.2 hf, State.faulted,
    State.recordedWord, if_neg hne, if_neg hne, State.fetched_pc, BitVec.add_sub_cancel]

/-! ### The cases of a cycle -/

section
variable {run : Instr → State → Host.Outcome State Fault Refusal} {s : State}

theorem cycle_of_halted (h : s.halted = true) : cycle run s = .next s := if_pos h

theorem cycle_of_pc_gt (hh : s.halted = false) (hp : 0xFFE < s.pc.toNat) :
    cycle run s = .next (s.faulted .fetchError) := by
  simp [cycle, State.fetch, hh, hp, State.faulted, State.recordedWord]

theorem cycle_of_decode_none (hh : s.halted = false) (hp : s.pc.toNat ≤ 0xFFE)
    (hd : decode (s.wordAt s.pc.toNat) = none) : cycle run s = .next (s.faulted .unimplementedOpcode) := by
  simp [cycle, State.fetch, hh, hp.not_gt, hd, State.faulted, State.recordedWord]

end

theorem stepWith_of_nextIs {s : State} {i : Instr} (hh : s.halted = false) (h : NextIs s i) (rnd : Byte) :
    stepWith rnd s = execWith rnd i s.fetched := cycle_runs hh h.1 h.2

theorem step_of_nextIs {s : State} {i : Instr} (hh : s.halted = false) (h : NextIs s i) :
    step s = exec i s.fetched := cycle_runs hh h.1 h.2

/-- A STEP with a fault leaves the faulted state (60_exceptions.md R203, R206). -/
theorem stepWith_of_faultOnStep {s : State} {f : Fault} (hh : s.halted = false) (hf : s.faultOnStep = some f)
    (rnd : Byte) : stepWith rnd s = .next (s.faulted f) := by
  obtain hp | ⟨hp, hd⟩ | ⟨i, hi⟩ := step_finds s
  · rw [faultOnStep_of_pc_gt hp] at hf
    cases hf
    exact cycle_of_pc_gt hh hp
  · rw [faultOnStep_of_decode_none hp hd] at hf
    cases hf
    exact cycle_of_decode_none hh hp hd
  · rw [stepWith_of_nextIs hh hi]
    exact execWith_fetched_of_faultIn hi ((faultOnStep_of_nextIs hi).symm.trans hf) rnd

/-- A STEP with no fault completes the instruction it fetched, in its frame (60_exceptions.md R224). -/
theorem stepWith_completes {s : State} (hh : s.halted = false) (hf : s.faultOnStep = none) (rnd : Byte) :
    ∃ i t, NextIs s i ∧ i.faultIn s = none ∧ stepWith rnd s = .next t ∧ i.Completes s.fetched t := by
  obtain hp | ⟨hp, hd⟩ | ⟨i, hi⟩ := step_finds s
  · rw [faultOnStep_of_pc_gt hp] at hf
    cases hf
  · rw [faultOnStep_of_decode_none hp hd] at hf
    cases hf
  · rw [faultOnStep_of_nextIs hi] at hf
    obtain ⟨t, ht, hc⟩ := execWith_completes ((faultIn_fetched i s).trans hf) rnd
    exact ⟨i, t, hi, hf, (stepWith_of_nextIs hh hi rnd).trans ht, hc⟩

/-- Every STEP answers a next state. -/
theorem stepWith_answers (rnd : Byte) (s : State) : ∃ t, stepWith rnd s = .next t := by
  cases hh : s.halted with
  | true => exact ⟨s, cycle_of_halted hh⟩
  | false =>
    cases hf : s.faultOnStep with
    | some f => exact ⟨_, stepWith_of_faultOnStep hh hf rnd⟩
    | none =>
      obtain ⟨-, t, -, -, ht, -⟩ := stepWith_completes hh hf rnd
      exact ⟨t, ht⟩

/-! ### `step` and the STEP command -/

/-- The machine's step is the STEP command with the free byte: only Cxkk asks for it, and fetch leaves the counter
(60_exceptions.md R220; log entry 1). -/
theorem step_eq_stepWith (s : State) : step s = stepWith (Config.rnd s.draws) s := by
  cases hh : s.halted with
  | true => exact (cycle_of_halted hh).trans (cycle_of_halted hh).symm
  | false =>
    obtain hp | ⟨hp, hd⟩ | ⟨i, hi⟩ := step_finds s
    · exact (cycle_of_pc_gt hh hp).trans (cycle_of_pc_gt hh hp).symm
    · exact (cycle_of_decode_none hh hp hd).trans (cycle_of_decode_none hh hp hd).symm
    · rw [step_of_nextIs hh hi, stepWith_of_nextIs hh hi, exec_eq_execWith, State.fetched_draws]

theorem step_answers (s : State) : ∃ t, step s = .next t := by
  rw [step_eq_stepWith]
  exact stepWith_answers _ s

/-- Settles O3: every case of the cycle but Cxkk's gives the same for any two bytes. -/
theorem stepIsTheStepCommandWithAFreeByte : Obligations.StepIsTheStepCommandWithAFreeByte := by
  refine ⟨step_eq_stepWith, fun s i a b hi hne => ?_⟩
  cases hh : s.halted with
  | true => exact (cycle_of_halted hh).trans (cycle_of_halted hh).symm
  | false => rw [stepWith_of_nextIs hh hi, stepWith_of_nextIs hh hi, execWith_eq_exec hne, execWith_eq_exec hne]

/-- Settles O1: the last case of the cycle, whose fetch leaves PC advanced. -/
theorem stepRunsDecodedInstruction : Obligations.StepRunsDecodedInstruction := fun _ _ => step_of_nextIs

theorem applyCommand_step {c : Config} {rnd : Byte} {s t : State} (h : stepWith rnd s = .next t) :
    applyCommand c (.step rnd) s = .next (t, t.status) := by
  simp only [applyCommand, h]

theorem State.status_of_halted {s : State} (h : s.halted = true) : s.status = .fault s.faultCause := if_pos h

theorem State.status_of_running {s : State} (h : s.halted = false) : s.status = .ok := by
  simp [State.status, h]

/-! ### The faulted state -/

@[simp] theorem State.faulted_faultCause (s : State) (f : Fault) : (s.faulted f).faultCause = f.code := rfl

theorem State.faulted_pc (s : State) (f : Fault) :
    (s.faulted f).pc = if f = .fetchError then s.pc else s.pc + 2 := by
  unfold State.faulted
  split <;> rfl

theorem State.faulted_faultedWith (s : State) (f : Fault) :
    FaultedWith f.code (s.recordedWord f) s (s.faulted f) := ⟨rfl, rfl, rfl, rfl⟩

/-- A faulting STEP changes the fault registers and PC alone (60_exceptions.md R206). -/
theorem State.faulted_onlyChanges (s : State) (f : Fault) : OnlyChanges [.faults, .pc] s (s.faulted f) := by
  refine OnlyChanges.trans (t := if f = .fetchError then s else s.fetched) ?_
    ((State.raise_onlyChanges_faults _ f _ _).mono (by simp))
  split
  · exact .refl _ s
  · exact s.fetched_onlyChanges_pc.mono (by simp)

/-- The cause a code names (60_exceptions.md R201). -/
def Fault.ofCode (code : Byte) : Option Fault :=
  [.fetchError, .unimplementedOpcode, .stackOverflow, .stackUnderflow, .memoryBounds, .keyIndex][code.toNat - 1]?

theorem Fault.ofCode_code (f : Fault) : Fault.ofCode f.code = some f := by
  cases f <;> rfl

/-- The codes tell the causes apart (60_exceptions.md R201). -/
theorem Fault.code_inj {f g : Fault} : f.code = g.code ↔ f = g := by
  refine ⟨fun h => Option.some.inj ?_, congrArg Fault.code⟩
  rw [← f.ofCode_code, h, g.ofCode_code]

theorem Fault.code_bounds (f : Fault) : 1 ≤ f.code.toNat ∧ f.code.toNat ≤ 6 := by
  cases f <;> decide

/-- Settles O2: each case of the cycle, with the status of the state it ends in. -/
theorem stepCommandFollowsTheCycle : Obligations.StepCommandFollowsTheCycle := by
  refine fun c rnd s => ⟨fun hh => ?_, fun hh hp => ?_, fun hh hp hd => ?_, fun i hh hi => ?_⟩
  · rw [applyCommand_step (cycle_of_halted hh), State.status_of_halted hh]
  · exact applyCommand_step (cycle_of_pc_gt hh hp)
  · exact applyCommand_step (cycle_of_decode_none hh hp hd)
  · have hrun := stepWith_of_nextIs hh hi rnd
    cases hf : i.faultIn s with
    | some f =>
      have ht := execWith_fetched_of_faultIn hi hf rnd
      have hne : f ≠ .fetchError := by rintro rfl; exact faultIn_ne_fetchError hf
      have hw : s.recordedWord f = s.wordAt s.pc.toNat := if_neg hne
      exact ⟨_, ht, .inr ⟨hw ▸ s.faulted_faultedWith f, applyCommand_step (hrun.trans ht)⟩⟩
    | none =>
      obtain ⟨t, ht, hc⟩ := execWith_completes ((faultIn_fetched i s).trans hf) rnd
      have running : t.halted = false := hc.halted.trans hh
      exact ⟨t, ht, .inl ⟨running, State.status_of_running running ▸ applyCommand_step (hrun.trans ht)⟩⟩

/-! ### Precise faults and their causes -/

/-- A STEP of a running core ends halted exactly by a fault of its own. -/
theorem step_cases {s t : State} (hh : s.halted = false) (h : step s = .next t) :
    (∃ f, s.faultOnStep = some f ∧ t = s.faulted f) ∨ (s.faultOnStep = none ∧ t.halted = false) := by
  rw [step_eq_stepWith] at h
  cases hf : s.faultOnStep with
  | some f =>
    rw [stepWith_of_faultOnStep hh hf] at h
    cases h
    exact .inl ⟨f, rfl, rfl⟩
  | none =>
    obtain ⟨i, t', -, -, ht, hc⟩ := stepWith_completes hh hf (Config.rnd s.draws)
    rw [h] at ht
    cases ht
    exact .inr ⟨rfl, hc.halted.trans hh⟩

/-- Settles O22: a halted end is the faulted state, whose frame and PC are known. -/
theorem faultsArePrecise : Obligations.FaultsArePrecise := by
  intro s t hh h ht
  obtain ⟨f, -, rfl⟩ | ⟨-, running⟩ := step_cases hh h
  · have cause : f.code = 1 ↔ f = .fetchError := Fault.code_inj (g := .fetchError)
    refine ⟨s.faulted_onlyChanges f, rfl, fun h1 => ?_, fun h1 => ?_⟩
    · rw [State.faulted_pc, if_pos (cause.1 h1)]
    · rw [State.faulted_pc, if_neg (fun e => h1 (cause.2 e))]
  · simp [running] at ht

/-- A STEP records a cause with its word exactly when that is its fault. -/
theorem faultedWith_iff {s t : State} (hh : s.halted = false) (h : step s = .next t) (f : Fault) :
    FaultedWith f.code (s.recordedWord f) s t ↔ s.faultOnStep = some f := by
  obtain ⟨g, hg, rfl⟩ | ⟨hn, running⟩ := step_cases hh h
  · rw [hg]
    constructor
    · rintro ⟨-, cause, -⟩
      rw [Fault.code_inj.1 cause]
    · intro e
      cases e
      exact s.faulted_faultedWith _
  · simp [hn, FaultedWith, running]

/-- A fault of the execute stage is the fault of the instruction a STEP finds. -/
theorem faultOnStep_eq_some_iff {s : State} {f : Fault} (h1 : f ≠ .fetchError) (h2 : f ≠ .unimplementedOpcode) :
    s.faultOnStep = some f ↔ ∃ i, NextIs s i ∧ i.faultIn s = some f := by
  constructor
  · intro h
    obtain hp | ⟨hp, hd⟩ | ⟨i, hi⟩ := step_finds s
    · rw [faultOnStep_of_pc_gt hp] at h
      exact absurd (Option.some.inj h).symm h1
    · rw [faultOnStep_of_decode_none hp hd] at h
      exact absurd (Option.some.inj h).symm h2
    · exact ⟨i, hi, (faultOnStep_of_nextIs hi).symm.trans h⟩
  · rintro ⟨i, hi, hf⟩
    exact (faultOnStep_of_nextIs hi).trans hf

theorem faultOnStep_eq_fetchError_iff {s : State} : s.faultOnStep = some .fetchError ↔ 0xFFE < s.pc.toNat := by
  refine ⟨fun h => ?_, faultOnStep_of_pc_gt⟩
  obtain hp | ⟨hp, hd⟩ | ⟨i, hi⟩ := step_finds s
  · exact hp
  · rw [faultOnStep_of_decode_none hp hd] at h
    cases h
  · exact absurd ((faultOnStep_of_nextIs hi).symm.trans h) faultIn_ne_fetchError

theorem faultOnStep_eq_unimplementedOpcode_iff {s : State} : s.faultOnStep = some .unimplementedOpcode ↔
    s.pc.toNat ≤ 0xFFE ∧ decode (s.wordAt s.pc.toNat) = none := by
  refine ⟨fun h => ?_, fun h => faultOnStep_of_decode_none h.1 h.2⟩
  obtain hp | hn | ⟨i, hi⟩ := step_finds s
  · rw [faultOnStep_of_pc_gt hp] at h
    cases h
  · exact hn
  · exact absurd ((faultOnStep_of_nextIs hi).symm.trans h) faultIn_ne_unimplementedOpcode

/-! ### Which instruction raises which fault (60_exceptions.md R201) -/

theorem faultIn_eq_stackOverflow_iff {i : Instr} {s : State} :
    i.faultIn s = some .stackOverflow ↔ (∃ nnn, i = .call nnn) ∧ s.sp.val = 16 := by
  have := s.sp.isLt
  cases i with
  | call => simp only [Instr.faultIn]; split <;> simp <;> omega
  | ret | drw | ldBcd | storeRegs | loadRegs | skp | sknp => simp [Instr.faultIn]
  | _ => simp [Instr.faultIn]

theorem faultIn_eq_stackUnderflow_iff {i : Instr} {s : State} :
    i.faultIn s = some .stackUnderflow ↔ i = .ret ∧ s.sp.val = 0 := by
  cases i <;> simp [Instr.faultIn]

theorem faultIn_eq_memoryBounds_iff {i : Instr} {s : State} :
    i.faultIn s = some .memoryBounds ↔ AddressesAboveMemory s i := by
  cases i with
  | drw | ldBcd | storeRegs | loadRegs =>
    simp only [Instr.faultIn, AddressesAboveMemory, addressesValid_iff, Config.memSize]
    split <;> simp <;> omega
  | _ => simp [Instr.faultIn, AddressesAboveMemory]

theorem faultIn_eq_keyIndex_iff {i : Instr} {s : State} :
    i.faultIn s = some .keyIndex ↔ ∃ x, (i = .skp x ∨ i = .sknp x) ∧ 15 < (s.reg x).toNat := by
  cases i with
  | skp x | sknp x => simp [Instr.faultIn]; omega
  | _ => simp [Instr.faultIn]

/-- Settles O21: a STEP records a cause exactly when that is its fault, and each fault has its own condition. -/
theorem faultCausesAreExactlyTheListed : Obligations.FaultCausesAreExactlyTheListed := by
  intro s t hh h
  have iff := faultedWith_iff hh h
  refine ⟨(iff .fetchError).trans faultOnStep_eq_fetchError_iff,
    (iff .unimplementedOpcode).trans faultOnStep_eq_unimplementedOpcode_iff,
    (iff .stackOverflow).trans ?_, (iff .stackUnderflow).trans ?_, (iff .memoryBounds).trans ?_,
    (iff .keyIndex).trans ?_, fun ht => ?_⟩
  · simp only [faultOnStep_eq_some_iff (f := .stackOverflow) nofun nofun, faultIn_eq_stackOverflow_iff]
    exact ⟨fun ⟨_, hi, ⟨nnn, e⟩, hs⟩ => ⟨⟨nnn, e ▸ hi⟩, hs⟩, fun ⟨⟨nnn, hi⟩, hs⟩ => ⟨_, hi, ⟨nnn, rfl⟩, hs⟩⟩
  · simp only [faultOnStep_eq_some_iff (f := .stackUnderflow) nofun nofun, faultIn_eq_stackUnderflow_iff]
    exact ⟨fun ⟨_, hi, e, hs⟩ => ⟨e ▸ hi, hs⟩, fun ⟨hi, hs⟩ => ⟨_, hi, rfl, hs⟩⟩
  · simp only [faultOnStep_eq_some_iff (f := .memoryBounds) nofun nofun, faultIn_eq_memoryBounds_iff]
  · simp only [faultOnStep_eq_some_iff (f := .keyIndex) nofun nofun, faultIn_eq_keyIndex_iff]
    constructor
    · rintro ⟨i, hi, x, rfl | rfl, hx⟩
      exacts [⟨x, .inl hi, hx⟩, ⟨x, .inr hi, hx⟩]
    · rintro ⟨x, hi | hi, hx⟩
      exacts [⟨_, hi, x, .inl rfl, hx⟩, ⟨_, hi, x, .inr rfl, hx⟩]
  · obtain ⟨f, -, rfl⟩ | ⟨-, running⟩ := step_cases hh h
    · have cause : f.code = 1 ↔ f = .fetchError := Fault.code_inj (g := .fetchError)
      obtain ⟨low, high⟩ := f.code_bounds
      refine ⟨low, high, ?_⟩
      simp only [State.faulted_faultCause, cause]
      exact s.faulted_faultedWith f
    · simp [running] at ht

end Sys2Proof.Machine
end

section
/-! SUPPORT. The call stack: what a push and a pop leave in it, and CALL and RET (42_control.md R152, R154; 10_state.md
R29). -/

namespace Sys2Proof.Machine

/-- A push writes the slot SP names and no other (10_state.md R29). -/
theorem State.push_stack_getElem? (s : State) (w : Word) (h : s.sp.val < 16) (k : Nat) :
    (s.push w).stack.toList[k]? = if k = s.sp.val then some w else s.stack.toList[k]? := by
  by_cases hk : k = s.sp.val
  · subst hk; simp [h]
  · simp [hk, Ne.symm hk]

/-- A pop reads the slot under SP (10_state.md R29). -/
theorem State.getElem?_stack_top (s : State) : s.stack.toList[s.sp.val - 1]? = some s.top := by
  have := s.sp.isLt
  have h : s.sp.val - 1 < 16 := by omega
  simp [State.top, h]

/-- A pop reads what was pushed last. -/
theorem State.top_push (s : State) (w : Word) (h : s.sp.val < 16) : (s.push w).top = w := by
  have slot := (s.push w).getElem?_stack_top
  rw [State.push_sp_val s w h, Nat.add_sub_cancel, State.push_stack_getElem? s w h, if_pos rfl] at slot
  exact (Option.some.inj slot).symm

/-- A pop undoes a push in SP. -/
theorem State.drop_push_sp (s : State) (w : Word) (h : s.sp.val < 16) : (s.push w).drop.sp = s.sp := by
  rw [Fin.ext_iff, State.drop_sp_val, State.push_sp_val s w h, Nat.add_sub_cancel]

/-- Settles O46: below depth 16 CALL is a push and a write of PC, at depth 16 its fault condition holds. -/
theorem callPushesTheReturnAddress : Obligations.CallPushesTheReturnAddress := by
  refine fun nnn s => ⟨fun h => ?_, fun h => ?_⟩
  · refine ⟨_, exec_call nnn h, s.push_sp_val s.pc h, ?_, fun k hk => ?_, toNat_zextAddr nnn,
      s.push_setPc_onlyChanges _ _⟩
    · rw [State.setPc_stack, State.push_stack_getElem? s _ h, if_pos rfl]
    · rw [State.setPc_stack, State.push_stack_getElem? s _ h, if_neg hk]
  · exact exec_takesFault (faultIn_eq_stackOverflow_iff.2 ⟨⟨nnn, rfl⟩, h⟩)

/-- Settles O47: on a stack that is not empty RET is a pop and a write of PC, on an empty one its fault condition
holds. -/
theorem returnPopsTheStack : Obligations.ReturnPopsTheStack := by
  refine fun s => ⟨fun h => ?_, fun h => exec_takesFault (faultIn_eq_stackUnderflow_iff.2 ⟨rfl, h⟩)⟩
  refine ⟨_, exec_ret h, ?_, s.getElem?_stack_top.symm, rfl, s.drop_setPc_onlyChanges _⟩
  rw [State.setPc_sp, State.drop_sp_val]
  omega

/-- Settles O48: the pop reads what the push wrote, and the PC between them is overwritten. -/
theorem returnUndoesCall : Obligations.ReturnUndoesCall := by
  intro nnn s h
  refine ⟨_, (s.push s.pc).drop.setPc s.pc, exec_call nnn h, fun pc' => ?_, rfl, s.drop_push_sp s.pc h, ?_⟩
  · have depth : 0 < (s.push s.pc).sp.val := by rw [State.push_sp_val s s.pc h]; omega
    rw [exec_ret (s := ((s.push s.pc).setPc (zextAddr nnn)).setPc pc') depth]
    exact congrArg (fun w => Host.Outcome.next ((s.push s.pc).drop.setPc w)) (s.top_push s.pc h)
  · intro p hp
    cases p with
    | stack => exact absurd (List.mem_singleton_self _) hp
    | _ => simp [SamePart]

end Sys2Proof.Machine
end

section
/-! SUPPORT. What a STEP fetches and where it leaves PC (20_memory.md R53, R54, R65; 10_state.md R27). -/

namespace Sys2Proof.Machine

/-- PC is advanced without wrap from every address that can be fetched, and from every skip after it. -/
theorem toNat_add_two {w : Word} (h : w.toNat ≤ 0xFFFD) : (w + 2).toNat = w.toNat + 2 := by
  bv_omega

/-- Settles O4: a fetched word is two bytes and one write of PC, and a PC above 0xFFE is a fetch fault. -/
theorem fetchReadsTheBigEndianWord : Obligations.FetchReadsTheBigEndianWord := by
  refine fun s => ⟨fun hp => ?_, fun hp => ⟨s.fetch_eq_none_iff.2 hp, fun hh => ?_⟩⟩
  · have pc := s.setPc_writesPc (s.pc + 2)
    rw [toNat_add_two (by omega)] at pc
    exact ⟨_, if_neg hp.not_gt, toNat_wordOfBytes _ _, pc⟩
  · exact ⟨_, cycle_of_pc_gt hh hp, s.faulted_faultedWith .fetchError, s.raise_onlyChanges_faults _ _ _⟩

/-- Settles O5: the table's words are those the decoder refuses, and a refused word is the second case of the cycle. -/
theorem illegalWordsAreExactlyTheTable : Obligations.IllegalWordsAreExactlyTheTable := by
  refine ⟨decode_eq_none_iff_illegalWord, length_refused_words, fun s hh hp hw => ?_⟩
  have hd := (decode_eq_none_iff_illegalWord _).2 hw
  exact ⟨_, cycle_of_decode_none hh hp hd, s.faulted_faultedWith .unimplementedOpcode, rfl, s.faulted_onlyChanges _⟩

/-! ### PC after an instruction -/

/-- A skip after fetch on a condition, as a number (42_control.md R150). -/
theorem toNat_pc_skipIf_of_iff {s : State} (hp : s.pc.toNat ≤ 0xFFE) {p : Prop} [Decidable p] {c : Bool}
    (hc : c = true ↔ p) : (s.fetched.skipIf c).pc.toNat = if p then s.pc.toNat + 4 else s.pc.toNat + 2 := by
  have h1 := toNat_add_two (w := s.pc) (by omega)
  have h2 := toNat_add_two (w := s.pc + 2) (by omega)
  rw [State.skipIf_pc, State.fetched_pc, if_congr hc rfl rfl]
  split <;> omega

/-- A skip after fetch unless a condition holds, as a number (42_control.md R150). -/
theorem toNat_pc_skipIf_of_iff_not {s : State} (hp : s.pc.toNat ≤ 0xFFE) {p : Prop} [Decidable p] {c : Bool}
    (hc : c = true ↔ ¬ p) : (s.fetched.skipIf c).pc.toNat = if p then s.pc.toNat + 2 else s.pc.toNat + 4 := by
  rw [toNat_pc_skipIf_of_iff hp hc, ite_not]

/-- Some key is pressed exactly when the scan finds one (44_keys_timers.md R184). -/
theorem exists_key_iff_lowest_ne_none (k : Keys) : (∃ p ∈ k.toList, p = true) ↔ Keys.lowest k ≠ none := by
  simp [Keys.lowest, List.findIdx?_eq_none_iff]

/-- An instruction that completes after fetch leaves PC as the table gives it (10_state.md R27). -/
theorem toNat_pc_of_execWith_fetched {rnd : Byte} {i : Instr} {s t : State} (hp : s.pc.toNat ≤ 0xFFE)
    (hf : i.faultIn s = none) (h : execWith rnd i s.fetched = .next t) : t.pc.toNat = pcAfter s s.pc.toNat i := by
  cases i with
  | jp nnn => cases h; exact toNat_zextAddr nnn
  | jpV0 nnn => cases h; exact toNat_zextAddr_add_zextByte nnn _
  | call nnn =>
    cases (exec_call (s := s.fetched) nnn (ite_none_some_eq_none_iff.1 hf)).symm.trans h
    exact toNat_zextAddr nnn
  | ret =>
    cases (exec_ret (s := s.fetched) (ite_none_some_eq_none_iff.1 hf)).symm.trans h
    exact congrArg (fun slot => (Option.getD slot 0).toNat) s.getElem?_stack_top.symm
  | seByte x kk => cases h; exact toNat_pc_skipIf_of_iff hp decide_eq_true_iff
  | sneByte x kk => cases h; exact toNat_pc_skipIf_of_iff_not hp decide_eq_true_iff
  | seReg x y => cases h; exact toNat_pc_skipIf_of_iff hp decide_eq_true_iff
  | sneReg x y => cases h; exact toNat_pc_skipIf_of_iff_not hp decide_eq_true_iff
  | skp x =>
    cases (exec_skp (s := s.fetched) (ite_none_some_eq_none_iff.1 hf)).symm.trans h
    exact toNat_pc_skipIf_of_iff hp Iff.rfl
  | sknp x =>
    cases (exec_sknp (s := s.fetched) (ite_none_some_eq_none_iff.1 hf)).symm.trans h
    exact toNat_pc_skipIf_of_iff_not hp (by simp)
  | ldKey x =>
    cases hk : Keys.lowest s.key with
    | none =>
      cases (exec_ldKey_of_lowest_none (s := s.fetched) x hk).symm.trans h
      have back : s.fetched.pc - 2 = s.pc := BitVec.add_sub_cancel _ _
      exact (congrArg BitVec.toNat back).trans (if_neg fun he => (exists_key_iff_lowest_ne_none _).1 he hk).symm
    | some k =>
      cases (exec_ldKey_of_lowest_some (s := s.fetched) x hk).symm.trans h
      exact (toNat_add_two (by omega)).trans (if_pos ((exists_key_iff_lowest_ne_none _).2 (by simp [hk]))).symm
  | _ =>
    obtain ⟨f, hf', -⟩ | ⟨-, hc⟩ := execWith_cases h
    · rw [faultIn_fetched, hf] at hf'
      cases hf'
    · have pc : t.pc = s.pc + 2 := hc.parts .pc (by simp [Instr.mayChange])
      rw [pc]
      exact toNat_add_two (by omega)

/-- A completed STEP fetched an instruction whose fault condition fails, and ran it. -/
theorem execWith_of_running {rnd : Byte} {i : Instr} {s t : State} (hh : s.halted = false) (hi : NextIs s i)
    (h : stepWith rnd s = .next t) (ht : t.halted = false) :
    i.faultIn s = none ∧ execWith rnd i s.fetched = .next t := by
  refine ⟨?_, (stepWith_of_nextIs hh hi rnd).symm.trans h⟩
  cases hf : i.faultIn s with
  | none => rfl
  | some f =>
    rw [stepWith_of_faultOnStep hh ((faultOnStep_of_nextIs hi).trans hf)] at h
    cases h
    cases ht

/-- Settles O18: the table's entry for the instruction, and the slot that CALL's push writes. -/
theorem pcAfterEveryInstruction : Obligations.PcAfterEveryInstruction := by
  intro s t i hh hi h ht
  rw [step_eq_stepWith] at h
  obtain ⟨hf, hrun⟩ := execWith_of_running hh hi h ht
  refine ⟨toNat_pc_of_execWith_fetched hi.1 hf hrun, ?_⟩
  rintro nnn rfl
  have depth : s.sp.val < 16 := ite_none_some_eq_none_iff.1 hf
  cases (exec_call (s := s.fetched) nnn depth).symm.trans hrun
  exact (s.fetched.push_stack_getElem? _ depth _).trans (if_pos rfl)

/-! ### Bytes stored and then fetched -/

/-- Settles O20: the two bytes at PC are the two registers, so the next STEP finds their word. -/
theorem storeIsSeenByTheNextFetch : Obligations.StoreIsSeenByTheNextFetch := by
  intro s x r r' i hI hh hr hx hpc hd
  have valid : addressesValid s.indexAddr (x.toNat + 1) = true :=
    (addressesValid_iff _ _).2 (.inr (by rw [Config.memSize]; omega))
  have hi := State.load_store_inside s (a := s.indexAddr) (s.regsThrough_get x r (by omega))
  have lo := State.load_store_inside s (a := s.indexAddr) (s.regsThrough_get x r' hx)
  refine ⟨_, exec_storeRegs valid, step_of_nextIs hh ⟨?_, ?_⟩⟩
  · rw [State.store_pc]; omega
  · rw [State.wordAt, State.store_pc, hpc, hi, Nat.add_assoc, ← hr, lo, hd]

/-! ### Steps that change nothing -/

/-- A state that steps to itself is where any number of STEPs stays. -/
theorem core_run_of_step_self {s : State} (h : step s = .next s) (n : Nat) : Sys2Proof.core.run n s = .next s := by
  induction n with
  | zero => rfl
  | succ n ih => rw [core_run_next n h, ih]

/-- A fetch undone by a write of PC leaves the state it began with. -/
theorem State.fetched_setPc_pc (s : State) : s.fetched.setPc s.pc = s := rfl

/-- Settles O33: the jump writes PC back to where fetch found it. -/
theorem selfJumpIsAFixedPoint : Obligations.SelfJumpIsAFixedPoint := by
  intro s nnn hh hi hpc
  refine core_run_of_step_self ?_
  have target : zextAddr nnn = s.pc := BitVec.eq_of_toNat_eq ((toNat_zextAddr nnn).trans hpc)
  rw [step_of_nextIs hh hi, exec_jp, target, State.fetched_setPc_pc]

/-- Settles O58: with no key pressed PC is written back to where fetch found it, and a pressed key is one register
write. -/
theorem keyWaitIsAFixedPointUntilAKey : Obligations.KeyWaitIsAFixedPointUntilAKey := by
  refine fun x s hh hi => ⟨fun hnone => core_run_of_step_self ?_, fun k hk hdown hlow => ?_⟩
  · rw [step_of_nextIs hh hi, exec_ldKey_of_lowest_none (s := s.fetched) x (Keys.lowest_none.2 hnone), State.fetched_pc,
      BitVec.add_sub_cancel, State.fetched_setPc_pc]
  · have release := exec_ldKey_of_lowest_some (s := s.fetched) x (Keys.lowest_eq hk hdown hlow)
    obtain ⟨same, other, frame⟩ := s.fetched.setReg_writesReg x (BitVec.ofNat 8 k)
    exact ⟨_, (step_of_nextIs hh hi).trans release, rfl, same, other,
      (s.fetched_onlyChanges_pc.mono (by simp)).trans (frame.mono (by simp))⟩

/-! ### The empty memory -/

theorem Memory.initial_of_font_le {a : Nat} (h : 80 ≤ a) : Memory.initial a = 0 := dif_neg h.not_gt

theorem nextIs_nop_of_reset {pc : Word} (low : 80 ≤ pc.toNat) (high : pc.toNat ≤ 0xFFE) :
    NextIs (State.reset.setPc pc) .nop := by
  refine ⟨high, ?_⟩
  have hi : (State.reset.setPc pc).load pc.toNat = 0 := Memory.initial_of_font_le low
  have lo : (State.reset.setPc pc).load (pc.toNat + 1) = 0 := Memory.initial_of_font_le (by omega)
  rw [State.wordAt, State.setPc_pc, hi, lo]
  rfl

theorem step_nop_of_reset {pc : Word} (low : 80 ≤ pc.toNat) (high : pc.toNat ≤ 0xFFE) :
    step (State.reset.setPc pc) = .next (State.reset.setPc (pc + 2)) :=
  step_of_nextIs rfl (nextIs_nop_of_reset low high)

/-- Past the font the empty memory runs as NOPs up to the last word (70_reset_and_hazards.md R243). -/
theorem core_run_nops {a : Nat} (k : Nat) (low : 80 ≤ a) (high : a + 2 * k ≤ 0x1000) :
    Sys2Proof.core.run k (State.reset.setPc (BitVec.ofNat 16 a)) =
      .next (State.reset.setPc (BitVec.ofNat 16 (a + 2 * k))) := by
  induction k generalizing a with
  | zero => rfl
  | succ k ih =>
    have pc : (BitVec.ofNat 16 a).toNat = a := by rw [BitVec.toNat_ofNat]; omega
    have next : BitVec.ofNat 16 a + 2 = BitVec.ofNat 16 (a + 2) := by rw [BitVec.ofNat_add]; rfl
    rw [core_run_next k (step_nop_of_reset (by omega) (by omega)), next, ih (by omega) (by omega),
      show a + 2 + 2 * k = a + 2 * (k + 1) by omega]

/-- A run of one more step ends with that step. -/
theorem core_run_succ_last {s t : State} (n : Nat) (h : Sys2Proof.core.run n s = .next t) :
    Sys2Proof.core.run (n + 1) s = step t := by
  obtain ⟨u, hu⟩ := step_answers s
  induction n generalizing s u with
  | zero =>
    obtain rfl : s = t := Host.Outcome.next.inj h
    rw [core_run_next 0 hu, hu]
    rfl
  | succ n ih =>
    rw [core_run_next n hu] at h
    obtain ⟨v, hv⟩ := step_answers u
    rw [core_run_next (n + 1) hu, ih h v hv]

/-- Settles O28: NOPs up to 0x1000, where no word can be fetched. -/
theorem emptyMemoryRunsToFetchError : Obligations.EmptyMemoryRunsToFetchError := by
  have nops : ∀ k ≤ 1792, Sys2Proof.core.run k State.reset =
      .next (State.reset.setPc (BitVec.ofNat 16 (0x200 + 2 * k))) := fun k hk =>
    core_run_nops (a := 0x200) k (by decide) (by omega)
  refine ⟨nops, _, (core_run_succ_last 1792 (nops 1792 le_rfl)).trans (cycle_of_pc_gt rfl (by decide)), ?_⟩
  exact State.faulted_faultedWith _ .fetchError

end Sys2Proof.Machine
end

section
/-! SUPPORT. The state after construction and RESET, and that it meets the invariant (10_state.md R35 to R42;
20_memory.md R61; 70_reset_and_hazards.md R240, R241). -/

namespace Sys2Proof.Machine

/-- After construction the font is read at its addresses, and everywhere else memory reads as it does unlisted. -/
theorem resetWith_load (c : Config) (a : Nat) :
    (resetWith c).load a = if h : a < 80 then c.font[a] else Memory.initial a := by
  rw [State.load, resetWith, Memory.read_writeBytes, if_pos (Nat.zero_le a)]
  by_cases h : a < 80 <;> simp [h, Memory.read]

/-- The font stored over zeroed memory is canonical. -/
theorem resetWith_mem_wf (c : Config) : (resetWith c).mem.wf :=
  Memory.writeBytes_wf _ ⟨List.Pairwise.nil, List.forall_mem_nil _⟩ (by rw [Vector.length_toList]; decide)

/-- The empty memory list is canonical too and reads as the conventional font, so it is what construction stores. -/
theorem reset_eq_resetWith : State.reset = resetWith Config.spec := by
  have mem : ([] : Memory) = (resetWith Config.spec).mem := by
    refine Memory.ext_of_wf ⟨List.Pairwise.nil, List.forall_mem_nil _⟩ (resetWith_mem_wf _) fun a => ?_
    refine Eq.trans ?_ (resetWith_load Config.spec a).symm
    rw [Memory.read]
    split
    · next h => exact dif_pos h
    · rfl
  exact congrArg (fun m => { State.reset with mem := m }) mem

theorem resetWith_isResetState (c : Config) : IsResetState c (resetWith c) where
  font a h := by rw [resetWith_load, dif_pos h]
  zero a low _ := by rw [resetWith_load, dif_neg low.not_gt, Memory.initial_of_font_le low]
  regs r := by simp [resetWith, State.reset, State.reg]
  index := rfl
  pc := rfl
  sp := rfl
  stack k hk := by simp [resetWith, State.reset]
  timers := ⟨rfl, rfl⟩
  display := Framebuffer.pixel_blank
  keys k hk := by simp [resetWith, State.reset]
  faults := ⟨rfl, rfl, rfl, rfl⟩

theorem applyCommand_reset (c : Config) (s : State) :
    applyCommand c .reset s = .next ({ resetWith c with draws := s.draws }, .done) := rfl

/-- Settles O25: RESET gives construction's state but for the draw counter, of which nothing is asked. -/
theorem constructionAndResetGiveTheResetState : Obligations.ConstructionAndResetGiveTheResetState := by
  refine ⟨resetWith_isResetState, fun c s => ⟨_, applyCommand_reset c s, ?_⟩, reset_eq_resetWith, rfl⟩
  obtain ⟨font, zero, regs, index, pc, sp, stack, timers, display, keys, faults⟩ := resetWith_isResetState c
  exact ⟨font, zero, regs, index, pc, sp, stack, timers, display, keys, faults⟩

/-- Construction meets the invariant under any font. -/
theorem resetWith_inv {c : Config} (h : c.resetPc.toNat ≤ 0x10FE) : (resetWith c).Inv where
  memory := resetWith_mem_wf c
  pc := h
  stack k hk := by rw [(resetWith_isResetState c).stack k hk]; decide
  faults := .inl (resetWith_isResetState c).faults

/-- Settles O12: the reset state is construction with RESET_PC 0x200. -/
theorem resetMeetsInvariant : Obligations.ResetMeetsInvariant := by
  rw [Obligations.ResetMeetsInvariant, reset_eq_resetWith]
  exact resetWith_inv (by decide)

end Sys2Proof.Machine
end

section
/-! SUPPORT. The invariant through a STEP: memory stays canonical, PC and the stack slots stay in their bounds, and the
fault registers stay consistent (20_memory.md R50; 10_state.md R28, R29, R33). -/

namespace Sys2Proof.Machine

/-- An instruction leaves the memory list alone or stores bytes inside the address space (20_memory.md R52). -/
theorem mem_of_execWith {rnd : Byte} {i : Instr} {s t : State} (h : execWith rnd i s = .next t) :
    t.mem = s.mem ∨
      ∃ bytes, s.indexAddr + bytes.length ≤ Config.memSize ∧ t.mem = s.mem.writeBytes s.indexAddr bytes := by
  obtain ⟨f, -, rfl⟩ | ⟨hf, -⟩ := execWith_cases h
  · exact .inl rfl
  cases i with
  | ldBcd x =>
    have valid := ite_none_some_eq_none_iff.1 hf
    cases (exec_ldBcd x valid).symm.trans h
    refine .inr ⟨_, ?_, rfl⟩
    exact ((addressesValid_iff _ _).1 valid).resolve_left (by decide)
  | storeRegs x =>
    have valid := ite_none_some_eq_none_iff.1 hf
    cases (exec_storeRegs valid).symm.trans h
    refine .inr ⟨_, ?_, rfl⟩
    rw [State.regsThrough_length]
    exact ((addressesValid_iff _ _).1 valid).resolve_left (by simp)
  | ret => cases (exec_ret (ite_none_some_eq_none_iff.1 hf)).symm.trans h; exact .inl rfl
  | call nnn => cases (exec_call nnn (ite_none_some_eq_none_iff.1 hf)).symm.trans h; exact .inl rfl
  | drw x y n => cases (exec_drw x y (ite_none_some_eq_none_iff.1 hf)).symm.trans h; exact .inl rfl
  | loadRegs x => cases (exec_loadRegs (ite_none_some_eq_none_iff.1 hf)).symm.trans h; exact .inl rfl
  | skp x => cases (exec_skp (ite_none_some_eq_none_iff.1 hf)).symm.trans h; exact .inl (State.skipIf_mem _ _)
  | sknp x => cases (exec_sknp (ite_none_some_eq_none_iff.1 hf)).symm.trans h; exact .inl (State.skipIf_mem _ _)
  | seByte | sneByte | seReg | sneReg => cases h; exact .inl (State.skipIf_mem _ _)
  | ldKey x =>
    cases hk : Keys.lowest s.key with
    | none => cases (exec_ldKey_of_lowest_none x hk).symm.trans h; exact .inl rfl
    | some k => cases (exec_ldKey_of_lowest_some x hk).symm.trans h; exact .inl rfl
  | _ => cases h; exact .inl rfl

theorem mem_wf_of_execWith {rnd : Byte} {i : Instr} {s t : State} (hs : s.mem.wf) (h : execWith rnd i s = .next t) :
    t.mem.wf := by
  obtain e | ⟨bytes, bound, e⟩ := mem_of_execWith h
  · rwa [e]
  · rw [e]
    exact Memory.writeBytes_wf bytes hs bound

/-- An instruction leaves the stack's slots alone, but for CALL's push. -/
theorem stack_of_execWith {rnd : Byte} {i : Instr} {s t : State} (h : execWith rnd i s = .next t) :
    t.stack = s.stack ∨ t.stack = (s.push s.pc).stack := by
  obtain ⟨f, -, rfl⟩ | ⟨hf, hc⟩ := execWith_cases h
  · exact .inl rfl
  cases i with
  | ret => cases (exec_ret (ite_none_some_eq_none_iff.1 hf)).symm.trans h; exact .inl rfl
  | call nnn => cases (exec_call nnn (ite_none_some_eq_none_iff.1 hf)).symm.trans h; exact .inr rfl
  | _ => exact .inl (hc.parts .stack (by simp [Instr.mayChange])).1

/-- A push keeps a bound on the slots that its word meets. -/
theorem State.push_stack_le {s : State} {w : Word} {bound : Nat} (hw : w.toNat ≤ bound)
    (hs : ∀ k, (h : k < 16) → (s.stack[k]).toNat ≤ bound) (k : Nat) (hk : k < 16) :
    ((s.push w).stack[k]).toNat ≤ bound := by
  simp only [State.push_stack, Vector.getElem_setIfInBounds]
  split
  · exact hw
  · exact hs k hk

theorem ite_le_of_le {p : Prop} [Decidable p] {a b c : Nat} (ha : a ≤ c) (hb : b ≤ c) : (if p then a else b) ≤ c := by
  split <;> assumption

/-- Where a completed instruction leaves PC: the highest is BNNN's target (10_state.md R28). -/
theorem pcAfter_le {s : State} {a : Nat} (ha : a ≤ 0xFFE) (hs : ∀ k, (h : k < 16) → (s.stack[k]).toNat ≤ 0x1000)
    (i : Instr) : pcAfter s a i ≤ 0x10FE := by
  cases i with
  | seByte | sneByte | seReg | sneReg | skp | sknp | ldKey => exact ite_le_of_le (by omega) (by omega)
  | jp nnn | call nnn => exact (Nat.le_of_lt nnn.isLt).trans (by decide)
  | jpV0 nnn =>
    have := nnn.isLt
    have := (s.reg 0).isLt
    show nnn.toNat + (s.reg 0).toNat ≤ 0x10FE
    omega
  | ret =>
    have slot : pcAfter s a .ret = s.top.toNat :=
      congrArg (fun slot => (Option.getD slot 0).toNat) s.getElem?_stack_top
    rw [slot]
    exact (hs _ _).trans (by decide)
  | _ => exact Nat.le_trans (Nat.add_le_add_right ha 2) (by decide)

theorem State.faulted_inv {s : State} (h : s.Inv) (f : Fault) (hf : s.faultOnStep = some f) : (s.faulted f).Inv where
  memory := by
    unfold State.faulted
    split <;> exact h.memory
  pc := by
    have := h.pc
    rw [State.faulted_pc]
    split
    · exact h.pc
    · next hne =>
      have hp : ¬ 0xFFE < s.pc.toNat := fun hp => hne (Option.some.inj (hf.symm.trans (faultOnStep_of_pc_gt hp)))
      rw [toNat_add_two (by omega)]
      omega
  stack := by
    unfold State.faulted
    split <;> exact h.stack
  faults := .inr ⟨rfl, f.code_bounds⟩

/-- A STEP with any byte keeps the invariant: on a halted core nothing changes, a fault writes the fault registers and
PC, and a completed instruction keeps each part of it. -/
theorem stepWith_inv {rnd : Byte} {s t : State} (hs : s.Inv) (h : stepWith rnd s = .next t) : t.Inv := by
  cases hh : s.halted with
  | true =>
    cases (cycle_of_halted hh).symm.trans h
    exact hs
  | false =>
    cases hf : s.faultOnStep with
    | some f =>
      cases (stepWith_of_faultOnStep hh hf rnd).symm.trans h
      exact State.faulted_inv hs f hf
    | none =>
      obtain ⟨i, t', hi, hfi, ht, hc⟩ := stepWith_completes hh hf rnd
      cases h.symm.trans ht
      have hrun := (stepWith_of_nextIs hh hi rnd).symm.trans h
      have fetchedPc : s.fetched.pc.toNat ≤ 0x1000 := by
        have := hi.1
        rw [State.fetched_pc, toNat_add_two (by omega)]
        omega
      refine ⟨mem_wf_of_execWith (s := s.fetched) hs.memory hrun, ?_, ?_, ?_⟩
      · rw [toNat_pc_of_execWith_fetched hi.1 hfi hrun]
        exact pcAfter_le hi.1 hs.stack i
      · obtain e | e := stack_of_execWith hrun
        · rw [e]
          exact hs.stack
        · rw [e]
          exact State.push_stack_le fetchedPc hs.stack
      · obtain ⟨running, cause, pc, opcode⟩ := hc.faults
        rw [State.faultsConsistent, running, cause, pc, opcode]
        exact hs.faults

/-- Settles O11: `step` is a STEP with the free byte. -/
theorem stepKeepsInvariant : Obligations.StepKeepsInvariant := by
  intro s t hs h
  rw [step_eq_stepWith] at h
  exact stepWith_inv hs h

end Sys2Proof.Machine
end

section
/-! SUPPORT. What each host command answers, and sequences of commands (60_exceptions.md R222 to R227). -/

namespace Sys2Proof.Machine

/-! ### One command -/

theorem applyCommand_tickTimers_of_halted {c : Config} {s : State} (h : s.halted = true) :
    applyCommand c .tickTimers s = .next (s, .fault s.faultCause) := if_pos h

theorem applyCommand_tickTimers_of_running {c : Config} {s : State} (h : s.halted = false) :
    applyCommand c .tickTimers s = .next (s.ticked, .ticked s.toneOnTick) := by
  simp [applyCommand, h]

/-- A STEP's answer is its next state with that state's status. -/
theorem applyCommand_step_eq_next {c : Config} {rnd : Byte} {s t : State} {r : Response}
    (h : applyCommand c (.step rnd) s = .next (t, r)) : stepWith rnd s = .next t ∧ r = t.status := by
  obtain ⟨u, hu⟩ := stepWith_answers rnd s
  cases (applyCommand_step hu).symm.trans h
  exact ⟨hu, rfl⟩

/-- A tick's answer: a halted core's cause, or the timers and the tone (60_exceptions.md R225). -/
theorem applyCommand_tickTimers_eq_next {c : Config} {s t : State} {r : Response}
    (h : applyCommand c .tickTimers s = .next (t, r)) :
    (s.halted = true ∧ t = s ∧ r = .fault s.faultCause) ∨
    (s.halted = false ∧ t = s.ticked ∧ r = .ticked s.toneOnTick) := by
  cases hh : s.halted with
  | true =>
    cases (applyCommand_tickTimers_of_halted hh).symm.trans h
    exact .inl ⟨rfl, rfl, rfl⟩
  | false =>
    cases (applyCommand_tickTimers_of_running hh).symm.trans h
    exact .inr ⟨rfl, rfl, rfl⟩

/-- A LOAD's answer: an error with the state as it was, or one store of a program that fits
(70_reset_and_hazards.md R244). -/
theorem applyCommand_load_eq_next {c : Config} {s t : State} {bytes : List Byte} {r : Response}
    (h : applyCommand c (.load bytes) s = .next (t, r)) :
    (t = s ∧ r = .loadError) ∨
    (bytes.length ≤ Config.maxProgram ∧ t = s.store Config.programBase bytes ∧ r = .ok) := by
  obtain long | fits := Nat.lt_or_ge Config.maxProgram bytes.length
  · cases (applyCommand_load_of_maxProgram_lt c s long).symm.trans h
    exact .inl ⟨rfl, rfl⟩
  · cases (applyCommand_load_of_length_le c s fits).symm.trans h
    exact .inr ⟨fits, rfl, rfl⟩

theorem applyCommand_answers (c : Config) (cmd : Command) (s : State) : ∃ t r, applyCommand c cmd s = .next (t, r) := by
  cases cmd with
  | step rnd =>
    obtain ⟨t, ht⟩ := stepWith_answers rnd s
    exact ⟨_, _, applyCommand_step ht⟩
  | tickTimers =>
    cases hh : s.halted with
    | true => exact ⟨_, _, applyCommand_tickTimers_of_halted hh⟩
    | false => exact ⟨_, _, applyCommand_tickTimers_of_running hh⟩
  | load bytes =>
    obtain long | fits := Nat.lt_or_ge Config.maxProgram bytes.length
    · exact ⟨_, _, applyCommand_load_of_maxProgram_lt c s long⟩
    · exact ⟨_, _, applyCommand_load_of_length_le c s fits⟩
  | updateKeys | getDisplay | reset => exact ⟨_, _, rfl⟩

/-! ### The invariant -/

/-- Settles O13: a tick, a key update and a display request leave what the invariant speaks of, a LOAD stores inside the
address space, and RESET constructs. -/
theorem commandsKeepInvariant : Obligations.CommandsKeepInvariant := by
  intro c cmd s t r hpc hs h
  cases cmd with
  | step rnd => exact stepWith_inv hs (applyCommand_step_eq_next h).1
  | tickTimers =>
    obtain ⟨-, rfl, -⟩ | ⟨-, rfl, -⟩ := applyCommand_tickTimers_eq_next h
    · exact hs
    · exact ⟨hs.memory, hs.pc, hs.stack, hs.faults⟩
  | updateKeys k =>
    cases h
    exact ⟨hs.memory, hs.pc, hs.stack, hs.faults⟩
  | getDisplay =>
    cases h
    exact hs
  | load bytes =>
    obtain ⟨rfl, -⟩ | ⟨fits, rfl, -⟩ := applyCommand_load_eq_next h
    · exact hs
    · have bound : Config.programBase + bytes.length ≤ Config.memSize := Nat.add_le_add_left fits _
      exact ⟨Memory.writeBytes_wf bytes hs.memory bound, hs.pc, hs.stack, hs.faults⟩
  | reset =>
    cases h
    obtain ⟨memory, pc, stack, faults⟩ := resetWith_inv hpc
    exact ⟨memory, pc, stack, faults⟩

/-! ### Sequences -/

theorem applyCommands_cons {c : Config} {cmd : Command} {rest : List Command} {s t u : State} {r : Response}
    {rs : List Response} (h : applyCommand c cmd s = .next (t, r)) (h' : applyCommands c rest t = .next (u, rs)) :
    applyCommands c (cmd :: rest) s = .next (u, r :: rs) := by
  simp only [applyCommands, h, h']

theorem applyCommands_answers (c : Config) (cmds : List Command) (s : State) :
    ∃ t rs, applyCommands c cmds s = .next (t, rs) ∧ rs.length = cmds.length := by
  induction cmds generalizing s with
  | nil => exact ⟨s, [], rfl, rfl⟩
  | cons cmd rest ih =>
    obtain ⟨t, r, ht⟩ := applyCommand_answers c cmd s
    obtain ⟨u, rs, hu, hl⟩ := ih t
    exact ⟨u, r :: rs, applyCommands_cons ht hu, congrArg Nat.succ hl⟩

/-- Settles O14: a STEP, an execute stage and each command of a sequence answer a next state. -/
theorem everyCommandAnswers : Obligations.EveryCommandAnswers := by
  refine ⟨step_answers, fun i s => ?_, applyCommands_answers⟩
  rw [exec_eq_execWith]
  exact execWith_answers _ i s

theorem applyCommands_append {c : Config} {xs ys : List Command} {s t u : State} {rs us : List Response}
    (h : applyCommands c xs s = .next (t, rs)) (h' : applyCommands c ys t = .next (u, us)) :
    applyCommands c (xs ++ ys) s = .next (u, rs ++ us) := by
  induction xs generalizing s rs with
  | nil =>
    cases h
    exact h'
  | cons cmd rest ih =>
    obtain ⟨v, r, hv⟩ := applyCommand_answers c cmd s
    obtain ⟨w, rs', hw, -⟩ := applyCommands_answers c rest v
    cases (applyCommands_cons hv hw).symm.trans h
    exact applyCommands_cons hv (ih hw)

/-- Settles O15: a sequence is run one command after the other, and each order is one of the two sequences. -/
theorem commandSequencesCompose : Obligations.CommandSequencesCompose := by
  refine ⟨fun c xs ys s t u rs us => applyCommands_append, fun order c a b s => ?_⟩
  cases order with
  | firstThenSecond => exact .inl rfl
  | secondThenFirst => exact .inr rfl

/-! ### The halted core -/

/-- Settles O23: a halted core answers STEP and tick with its cause and leaves them undone, and the other commands do
not ask whether it is halted. -/
theorem haltedCoreIgnoresStepAndTick : Obligations.HaltedCoreIgnoresStepAndTick := by
  intro c s hh
  refine ⟨cycle_of_halted hh, fun rnd => ?_, applyCommand_tickTimers_of_halted hh, fun k => ?_,
    applyCommand_getDisplay c s, fun bytes fits => ?_, fun bytes => applyCommand_load_of_maxProgram_lt c s, ?_⟩
  · rw [applyCommand_step (cycle_of_halted hh), State.status_of_halted hh]
  · exact ⟨_, applyCommand_updateKeys c s k, rfl, s.setKeys_onlyChanges_keys k⟩
  · exact ⟨_, applyCommand_load_of_length_le c s fits, fun _ _ => s.load_store_inside,
      s.store_onlyChanges_memory _ bytes⟩
  · exact ⟨_, applyCommand_reset c s, rfl⟩

/-- Settles O24: RESET constructs, and on a halted core the other commands leave the fault registers by their frames. -/
theorem onlyResetClearsTheHalt : Obligations.OnlyResetClearsTheHalt := by
  refine ⟨fun c s => ⟨_, applyCommand_reset c s, rfl, rfl, rfl, rfl⟩, fun c cmd s t r hh hne h => ?_⟩
  have same : SamePart s s .faults := ⟨rfl, rfl, rfl, rfl⟩
  cases cmd with
  | step rnd =>
    cases (cycle_of_halted hh).symm.trans (applyCommand_step_eq_next h).1
    exact same
  | tickTimers =>
    cases (applyCommand_tickTimers_of_halted hh).symm.trans h
    exact same
  | updateKeys k =>
    cases h
    exact same
  | getDisplay =>
    cases h
    exact same
  | load bytes => obtain ⟨rfl, -⟩ | ⟨-, rfl, -⟩ := applyCommand_load_eq_next h <;> exact same
  | reset => exact absurd rfl hne

/-! ### LOAD -/

/-- Settles O27: a refused program changes nothing, and an accepted one is one store at 0x200. -/
theorem loadWritesNothingElse : Obligations.LoadWritesNothingElse := by
  intro c s t bytes r h
  obtain ⟨rfl, -⟩ | ⟨-, rfl, -⟩ := applyCommand_load_eq_next h
  · exact ⟨fun _ _ => rfl, .refl _ _⟩
  · exact ⟨fun _ => s.load_store_outside bytes, s.store_onlyChanges_memory _ bytes⟩

/-! ### TICK_TIMERS -/

theorem toneOnTick_eq_true_iff (s : State) : s.toneOnTick = true ↔ s.st = 1 := decide_eq_true_iff

/-- Settles O29: a tick is one countdown of each timer, and the tone is asked of ST before it. -/
theorem tickCountsDownAndSounds : Obligations.TickCountsDownAndSounds := fun _ s =>
  ⟨applyCommand_tickTimers_of_halted, fun hh => ⟨_, _, applyCommand_tickTimers_of_running hh, toNat_countDown s.dt,
    toNat_countDown s.st, toneOnTick_eq_true_iff s, s.ticked_onlyChanges_timers⟩⟩

/-- One tick's part in the number of tones: it sounds when ST is 1, and later ticks when ST was more. -/
theorem count_tone_cons (s : State) (rs : List Response) (n : Nat)
    (h : rs.count (.ticked true) = if 1 ≤ s.ticked.st.toNat ∧ s.ticked.st.toNat ≤ n then 1 else 0) :
    (Response.ticked s.toneOnTick :: rs).count (.ticked true) =
      if 1 ≤ s.st.toNat ∧ s.st.toNat ≤ n + 1 then 1 else 0 := by
  have tone : (Response.ticked s.toneOnTick == .ticked true) = true ↔ s.st.toNat = 1 := by
    rw [beq_iff_eq, Response.ticked.injEq, toneOnTick_eq_true_iff, ← BitVec.toNat_inj]
    rfl
  rw [List.count_cons, h, State.ticked_st, toNat_countDown, if_congr tone rfl rfl]
  split <;> split <;> split <;> omega

/-- Settles O30: by induction over the ticks, each of which leaves the core running. -/
theorem ticksSoundExactlyOnce : Obligations.TicksSoundExactlyOnce := by
  intro n c s hh
  induction n generalizing s with
  | zero => exact ⟨s, [], rfl, rfl, rfl, by simp; omega, .refl _ s⟩
  | succ n ih =>
    obtain ⟨t, rs, ht, hdt, hst, hcount, frame⟩ := ih s.ticked hh
    refine ⟨t, _, applyCommands_cons (applyCommand_tickTimers_of_running hh) ht, ?_, ?_, count_tone_cons s rs n hcount,
      s.ticked_onlyChanges_timers.trans frame⟩
    · rw [hdt, State.ticked_dt, toNat_countDown]; omega
    · rw [hst, State.ticked_st, toNat_countDown]; omega

/-- No command but a tick answers as a tick. -/
theorem response_ne_ticked {c : Config} {cmd : Command} {s t : State} {r : Response} (hne : cmd ≠ .tickTimers)
    (h : applyCommand c cmd s = .next (t, r)) (tone : Bool) : r ≠ .ticked tone := by
  cases cmd with
  | step rnd =>
    rw [(applyCommand_step_eq_next h).2, State.status]
    split <;> exact nofun
  | tickTimers => exact absurd rfl hne
  | load bytes => obtain ⟨-, rfl⟩ | ⟨-, -, rfl⟩ := applyCommand_load_eq_next h <;> exact nofun
  | updateKeys | getDisplay | reset =>
    cases h
    exact nofun

/-- Settles O56: the load is one write of ST, whose two next ticks count it down from 1 and leave it at 0, and only a
tick answers as one. -/
theorem soundTimerLoadEmitsNoTone : Obligations.SoundTimerLoadEmitsNoTone := by
  refine ⟨fun x s => ⟨_, exec_ldToSt x s, rfl, rfl, s.setSt_onlyChanges_timers _, fun c hh hx => ?_⟩,
    fun c cmd s t r => response_ne_ticked⟩
  have first : (s.setSt (s.reg x)).toneOnTick = true := (toneOnTick_eq_true_iff _).2 hx
  have zero : (s.setSt (s.reg x)).ticked.st = 0 := by rw [State.ticked_st, State.setSt_st, hx]; rfl
  have second : (s.setSt (s.reg x)).ticked.toneOnTick = false := by rw [State.toneOnTick, zero]; rfl
  refine ⟨(s.setSt (s.reg x)).ticked.ticked, ?_, by rw [State.ticked_st, zero]; rfl⟩
  rw [← first, ← second]
  exact applyCommands_cons (applyCommand_tickTimers_of_running hh)
    (applyCommands_cons (applyCommand_tickTimers_of_running hh) rfl)

/-! ### GET_DISPLAY -/

/-- Rows of one length joined: the `y`-th row begins at `y` times the length. -/
theorem getElem?_flatten_of_length {α : Type} {rows : List (List α)} {width : Nat}
    (h : ∀ row ∈ rows, row.length = width) (y : Nat) {x : Nat} (hx : x < width) :
    rows.flatten[y * width + x]? = rows[y]?.bind (fun row => row[x]?) := by
  induction rows generalizing y with
  | nil => simp
  | cons row rows ih =>
    have hrow : row.length = width := h row (by simp)
    rw [List.flatten_cons]
    cases y with
    | zero => rw [List.getElem?_append_left (by omega)]; simp
    | succ y =>
      have rest : (y + 1) * width + x - width = y * width + x := by rw [Nat.succ_mul]; omega
      rw [List.getElem?_append_right (by rw [Nat.succ_mul]; omega), hrow, rest, ih (fun r hr => h r (by simp [hr]))]
      simp

theorem Framebuffer.rowMajor_eq_flatten (fb : Framebuffer) :
    fb.rowMajor = (fb.toList.map fun row => row.toList).flatten := List.flatMap_def

/-- Settles O32: 32 rows of 64 pixels, joined. -/
theorem getDisplayIsRowMajor : Obligations.GetDisplayIsRowMajor := by
  refine fun c s => ⟨_, applyCommand_getDisplay c s, ?_, fun x y hx hy => ?_⟩
  · simp [Framebuffer.rowMajor_eq_flatten, List.length_flatten, Function.comp_def]
  · rw [Framebuffer.rowMajor_eq_flatten, getElem?_flatten_of_length (by simp) y hx]
    simp [Framebuffer.pixel, hx, hy, Nat.mod_eq_of_lt]

end Sys2Proof.Machine
end

section
/-! SUPPORT. The arithmetic and logic instructions with a flag or a draw, as numbers (40_alu.md R104 to R112). -/

namespace Sys2Proof.Machine

/-- Settles O36: each is one register write, whose bits are the operands' bits combined. -/
theorem logicOperationsBitByBit : Obligations.LogicOperationsBitByBit := by
  refine fun x y s => ⟨⟨_, exec_or x y s, ?_, fun b => ?_⟩, ⟨_, exec_and x y s, ?_, fun b => ?_⟩,
    ⟨_, exec_xor x y s, ?_, fun b => ?_⟩⟩ <;> rw [State.setReg_reg_same]
  · exact s.setReg_writesReg x _
  · exact BitVec.getLsbD_or
  · exact s.setReg_writesReg x _
  · exact BitVec.getLsbD_and
  · exact s.setReg_writesReg x _
  · rw [BitVec.getLsbD_xor]

/-! ### The results and flags as numbers -/

theorem toNat_carryFlag (a b : Byte) : (carryFlag a b).toNat = if 256 ≤ a.toNat + b.toNat then 1 else 0 := by
  rw [carryFlag, toNat_flagByte, if_congr decide_eq_true_iff rfl rfl]

theorem toNat_noBorrowFlag (a b : Byte) : (noBorrowFlag a b).toNat = if b.toNat ≤ a.toNat then 1 else 0 := by
  rw [noBorrowFlag, toNat_flagByte, if_congr decide_eq_true_iff rfl rfl]

theorem toNat_lowBitFlag (a : Byte) : (lowBitFlag a).toNat = a.toNat % 2 := by
  rw [lowBitFlag, toNat_flagByte, BitVec.getLsbD, Nat.testBit_zero, if_congr decide_eq_true_iff rfl rfl]
  split <;> omega

theorem toNat_highBitFlag (a : Byte) : (highBitFlag a).toNat = a.toNat / 128 := by
  have := a.isLt
  rw [highBitFlag, toNat_flagByte, BitVec.getLsbD, Nat.testBit_eq_decide_div_mod_eq,
    if_congr decide_eq_true_iff rfl rfl]
  split <;> omega

/-- A byte difference is the difference mod 256 (40_alu.md R108). -/
theorem toNat_byte_sub (a b : Byte) : (a - b).toNat = (a.toNat + 256 - b.toNat) % 256 := by
  rw [BitVec.toNat_sub]
  omega

theorem toNat_byte_shiftLeft_one (a : Byte) : (a <<< 1).toNat = a.toNat * 2 % 256 := by
  rw [BitVec.toNat_shiftLeft, Nat.shiftLeft_eq]

theorem toNat_byte_ushiftRight_one (a : Byte) : (a >>> 1).toNat = a.toNat / 2 := by
  rw [BitVec.toNat_ushiftRight, Nat.shiftRight_eq_div_pow]

/-- Settles O37: a result and flag write of the wrapped sum and the carry. -/
theorem addSetsCarry : Obligations.AddSetsCarry := by
  refine fun x y s => ⟨_, exec_addReg x y s, ?_⟩
  have writes := s.setResultAndFlag_writes x (s.reg x + s.reg y) (carryFlag (s.reg x) (s.reg y))
  rwa [BitVec.toNat_add, toNat_carryFlag] at writes

/-- SUB and SUBN write one difference and its flag (40_alu.md R108, R110). -/
theorem setResultAndFlag_sub_writes (s : State) (x : Reg) (a b : Byte) :
    WritesResultAndFlag x ((a.toNat + 256 - b.toNat) % 256) (if b.toNat ≤ a.toNat then 1 else 0) s
      (s.setResultAndFlag x (a - b) (noBorrowFlag a b)) := by
  have writes := s.setResultAndFlag_writes x (a - b) (noBorrowFlag a b)
  rwa [toNat_byte_sub, toNat_noBorrowFlag] at writes

/-- Settles O38: the two subtractions write a difference and its flag, in one order of the operands and the other. -/
theorem subtractSetsNotBorrow : Obligations.SubtractSetsNotBorrow := fun x y s =>
  ⟨⟨_, exec_sub x y s, setResultAndFlag_sub_writes s x _ _⟩, ⟨_, exec_subn x y s, setResultAndFlag_sub_writes s x _ _⟩⟩

/-- Settles O39: result and flag writes of the shifted byte and the bit shifted out. -/
theorem shiftSetsTheBitShiftedOut : Obligations.ShiftSetsTheBitShiftedOut := by
  refine fun x s => ⟨⟨_, exec_shr x s, ?_⟩, ⟨_, exec_shl x s, ?_⟩⟩
  · have writes := s.setResultAndFlag_writes x (s.reg x >>> 1) (lowBitFlag (s.reg x))
    rwa [toNat_byte_ushiftRight_one, toNat_lowBitFlag] at writes
  · have writes := s.setResultAndFlag_writes x (s.reg x <<< 1) (highBitFlag (s.reg x))
    rwa [toNat_byte_shiftLeft_one, toNat_highBitFlag] at writes

/-- A draw writes its register with the masked byte and no other (40_alu.md R112). -/
theorem drawRandom_writes (rnd : Byte) (x : Reg) (kk : Byte) (s : State) :
    (drawRandom rnd x kk s).reg x = rnd &&& kk ∧ ∀ r, r ≠ x → (drawRandom rnd x kk s).reg r = s.reg r :=
  ⟨s.setReg_reg_same x _, fun _ hr => s.setReg_reg_other _ hr⟩

/-- Settles O40: the draw is one register write and one step of the counter, for every byte. -/
theorem randomIsAnyDrawUnderTheMask : Obligations.RandomIsAnyDrawUnderTheMask := by
  refine fun x kk s => ⟨fun rnd => ?_, ?_⟩
  · obtain ⟨same, other⟩ := drawRandom_writes rnd x kk s
    exact ⟨_, execWith_rnd rnd x kk s, same, other, drawRandom_onlyChanges rnd x kk s⟩
  · obtain ⟨same, other⟩ := drawRandom_writes (Config.rnd s.draws) x kk s
    exact ⟨_, rfl, same, rfl, other, drawRandom_onlyChanges _ x kk s⟩

end Sys2Proof.Machine
end

section
/-! SUPPORT. The index register and the memory transfers (41_transfer.md R131 to R136). -/

namespace Sys2Proof.Machine

/-! ### The index register -/

theorem toNat_zextByte (b : Byte) : (zextByte b).toNat = b.toNat := BitVec.toNat_setWidth_of_le (by decide)

theorem toNat_five_mul_zextByte (b : Byte) : (5 * zextByte b).toNat = 5 * b.toNat := by
  have := b.isLt
  rw [BitVec.toNat_mul, toNat_zextByte]
  exact Nat.mod_eq_of_lt (show 5 * b.toNat < 2 ^ 16 by omega)

/-- Settles O41: each is one write of I, whose value is the exact address, the wrapped sum, or five times the byte. -/
theorem indexInstructionsWriteIAlone : Obligations.IndexInstructionsWriteIAlone := by
  refine fun nnn x s => ⟨⟨_, exec_ldI nnn s, toNat_zextAddr nnn, s.setI_onlyChanges_index _⟩,
    ⟨_, exec_addI x s, ?_, s.setI_onlyChanges_index _⟩,
    ⟨_, exec_ldFont x s, toNat_five_mul_zextByte _, s.setI_onlyChanges_index _⟩⟩
  rw [State.setI_i, BitVec.toNat_add, toNat_zextByte]

/-! ### Memory transfers -/

/-- The address check on a block of `count + 1` bytes at I. -/
theorem addressesValid_succ_of_le {s : State} {count : Nat} (h : s.i.toNat + count ≤ 0xFFF) :
    addressesValid s.indexAddr (count + 1) = true :=
  (addressesValid_iff _ _).2 (.inr (Nat.succ_le_succ h))

/-- Settles O42: the store of the three digits, whose addresses are checked first. -/
theorem bcdStoresThreeDigits : Obligations.BcdStoresThreeDigits := by
  refine fun x s => ⟨fun h => ?_, fun h => exec_takesFault (faultIn_eq_memoryBounds_iff.2 h)⟩
  have stored (j : Nat) (b : Byte) (hb : (bcdDigits (s.reg x))[j]? = some b) :
      (s.store s.indexAddr (bcdDigits (s.reg x))).load (s.i.toNat + j) = b := s.load_store_inside hb
  refine ⟨_, exec_ldBcd x (addressesValid_succ_of_le h), ?_, ?_, ?_, fun a ha => s.load_store_outside _ ?_,
    s.store_onlyChanges_memory _ _⟩
  · exact congrArg BitVec.toNat (stored 0 _ rfl)
  · rw [stored 1 _ rfl, BitVec.toNat_umod, BitVec.toNat_udiv]; rfl
  · rw [stored 2 _ rfl, BitVec.toNat_umod]; rfl
  · simp only [State.indexAddr, bcdDigits, List.length_cons, List.length_nil]; omega

/-- Settles O43: the store of V0 to Vx, whose addresses are checked first. -/
theorem blockStoreWritesRegistersInOrder : Obligations.BlockStoreWritesRegistersInOrder := by
  refine fun x s => ⟨fun h => ?_, fun h => exec_takesFault (faultIn_eq_memoryBounds_iff.2 h)⟩
  refine ⟨_, exec_storeRegs (addressesValid_succ_of_le h),
    fun r hr => s.load_store_inside (s.regsThrough_get x r hr), fun a ha => s.load_store_outside _ ?_,
    s.store_onlyChanges_memory _ _⟩
  rw [State.indexAddr, State.regsThrough_length]
  omega

/-- Settles O44: the load into V0 to Vx, whose addresses are checked first. -/
theorem blockLoadReadsRegistersInOrder : Obligations.BlockLoadReadsRegistersInOrder := by
  refine fun x s => ⟨fun h => ?_, fun h => exec_takesFault (faultIn_eq_memoryBounds_iff.2 h)⟩
  refine ⟨_, exec_loadRegs (addressesValid_succ_of_le h), fun r hr => ?_, fun r hr => ?_,
    s.setRegsThrough_onlyChanges_regs _ _⟩
  · rw [State.setRegsThrough_reg, if_pos hr]; rfl
  · rw [State.setRegsThrough_reg, if_neg hr.not_ge]

end Sys2Proof.Machine
end

section
/-! SUPPORT. The key skips (44_keys_timers.md R180 to R182). -/

namespace Sys2Proof.Machine

/-- Settles O54: on a key index each is one skip on the key's level, else its fault condition holds. -/
theorem keySkips : Obligations.KeySkips := by
  refine fun x s => ⟨fun k hk hx => ?_, fun h => ?_⟩
  · have index : (s.reg x).toNat < 16 := hx ▸ hk
    have level := s.keyDown_eq (s.reg x) k hk hx
    refine ⟨⟨_, exec_skp index, s.skipIf_onlyChanges_pc _, ?_⟩, ⟨_, exec_sknp index, s.skipIf_onlyChanges_pc _, ?_⟩⟩
    · rw [State.skipIf_pc, level]
    · rw [State.skipIf_pc, level]
      cases s.key[k] <;> rfl
  · exact ⟨exec_takesFault (faultIn_eq_keyIndex_iff.2 ⟨x, .inl rfl, h⟩),
      exec_takesFault (faultIn_eq_keyIndex_iff.2 ⟨x, .inr rfl, h⟩)⟩

end Sys2Proof.Machine
end

section
/-! SUPPORT. The draw: its places are the wrapped sprite mask, which it XORs into the framebuffer (43_draw.md R172,
R173). -/

namespace Sys2Proof.Machine

/-- The places a Dxyn plots (43_draw.md R172). -/
def State.drawnPoints (s : State) (x y : Reg) (n : Nibble) : List (Nat × Nat) :=
  spritePoints s.mem s.indexAddr n.toNat (s.reg x).toNat (s.reg y).toNat

theorem State.drawn_eq_plots (s : State) (x y : Reg) (n : Nibble) :
    s.drawn x y n = (s.drawnPoints x y n).foldl (fun d p => plotBit d p.1 p.2) (s.fb, false) :=
  drawSprite_eq_plots _ _ _ _ _ _

theorem State.drawnPoints_distinct (s : State) (x y : Reg) (n : Nibble) :
    (s.drawnPoints x y n).Pairwise (fun p q => ¬ SamePixel p q) :=
  spritePoints_distinct _ _ _ _ _ ((Nat.le_of_lt n.isLt).trans (by decide))

/-- The sprite mask is where the draw plots (43_draw.md R173). -/
theorem spriteCovers_iff {s : State} {x y : Reg} {n : Nibble} {px py : Nat} (hx : px < 64) (hy : py < 32) :
    SpriteCovers s x y n px py ↔ ∃ p ∈ s.drawnPoints x y n, SamePixel p (px, py) := by
  simp only [SpriteCovers, State.drawnPoints, mem_spritePoints, SamePixel, Nat.mod_eq_of_lt hx, Nat.mod_eq_of_lt hy]
  constructor
  · rintro ⟨r, hr, c, hc, set, ex, ey⟩
    exact ⟨_, ⟨r, hr, c, hc, set, rfl⟩, ex, ey⟩
  · rintro ⟨_, ⟨r, hr, c, hc, set, rfl⟩, ex, ey⟩
    exact ⟨r, hr, c, hc, set, ex, ey⟩

theorem State.drawn_pixel_of_covers {s : State} {x y : Reg} {n : Nibble} {px py : Nat} (hx : px < 64) (hy : py < 32)
    (h : SpriteCovers s x y n px py) : (s.drawn x y n).1.pixel px py = !s.fb.pixel px py := by
  rw [State.drawn_eq_plots]
  exact (plots_pixel _ (s.drawnPoints_distinct x y n) _ px py).1 ((spriteCovers_iff hx hy).1 h)

theorem State.drawn_pixel_of_not_covers {s : State} {x y : Reg} {n : Nibble} {px py : Nat} (hx : px < 64) (hy : py < 32)
    (h : ¬ SpriteCovers s x y n px py) : (s.drawn x y n).1.pixel px py = s.fb.pixel px py := by
  rw [State.drawn_eq_plots]
  exact (plots_pixel _ (s.drawnPoints_distinct x y n) _ px py).2 (fun hp => h ((spriteCovers_iff hx hy).2 hp))

/-- A draw collides exactly when the mask covers a set pixel (43_draw.md R173). -/
theorem State.drawn_collision_iff (s : State) (x y : Reg) (n : Nibble) :
    (s.drawn x y n).2 = true ↔ ∃ px py, px < 64 ∧ py < 32 ∧ SpriteCovers s x y n px py ∧ s.fb.pixel px py = true := by
  rw [State.drawn_eq_plots, plots_collision _ (s.drawnPoints_distinct x y n), Bool.false_or, List.any_eq_true]
  constructor
  · rintro ⟨p, hp, set⟩
    have hx : p.1 % 64 < 64 := Nat.mod_lt _ (by decide)
    have hy : p.2 % 32 < 32 := Nat.mod_lt _ (by decide)
    refine ⟨p.1 % 64, p.2 % 32, hx, hy, (spriteCovers_iff hx hy).2 ⟨p, hp, ?_, ?_⟩, ?_⟩
    · exact (Nat.mod_mod _ _).symm
    · exact (Nat.mod_mod _ _).symm
    · rwa [Framebuffer.pixel_wrap]
  · rintro ⟨px, py, hx, hy, covers, set⟩
    obtain ⟨p, hp, ex, ey⟩ := (spriteCovers_iff hx hy).1 covers
    refine ⟨p, hp, ?_⟩
    rwa [← Framebuffer.pixel_wrap, ex, ey, Framebuffer.pixel_wrap]

/-- Where a Dxyn is in bounds: no row, or its last row's address at most 0xFFF (20_memory.md R52). -/
theorem addressesValid_of_rows {s : State} {n : Nibble} (h : n.toNat = 0 ∨ s.i.toNat + n.toNat - 1 ≤ 0xFFF) :
    addressesValid s.indexAddr n.toNat = true := by
  rw [addressesValid_iff, State.indexAddr, Config.memSize]
  omega

/-- Settles O52: the draw is one write of the XORed framebuffer and one of the flag, whose addresses are checked
first. -/
theorem drawXorsTheSpriteMask : Obligations.DrawXorsTheSpriteMask := by
  refine fun x y n s => ⟨fun h => ?_, fun rows h => exec_takesFault (faultIn_eq_memoryBounds_iff.2 ⟨rows, h⟩)⟩
  have flag := (s.setFb (s.drawn x y n).1).setReg_reg_same vf (flagByte (s.drawn x y n).2)
  refine ⟨_, exec_drw x y (addressesValid_of_rows h), fun px py hx hy => ⟨State.drawn_pixel_of_covers hx hy,
    State.drawn_pixel_of_not_covers hx hy⟩, fun hit => ?_, fun miss => ?_,
    fun r hr => (s.setFb _).setReg_reg_other _ hr, s.setFb_setReg_onlyChanges _ _ _⟩
  · rw [flag, (s.drawn_collision_iff x y n).2 hit]
    rfl
  · have clear : (s.drawn x y n).2 = false := by
      rw [← Bool.not_eq_true, s.drawn_collision_iff]
      rintro ⟨px, py, hx, hy, covers, set⟩
      rw [miss px py hx hy covers] at set
      cases set
    rw [flag, clear]
    rfl

/-- Settles O53: the second draw reads the same coordinates and rows, so it has the same mask, and a toggle undoes a
toggle. -/
theorem drawTwiceRestoresTheDisplay : Obligations.DrawTwiceRestoresTheDisplay := by
  intro x y n s hx hy h
  have first := exec_drw x y (addressesValid_of_rows h)
  generalize ht : (s.setFb (s.drawn x y n).1).setReg vf (flagByte (s.drawn x y n).2) = t at first
  have xs : t.reg x = s.reg x := by rw [← ht]; exact (s.setFb _).setReg_reg_other _ hx
  have ys : t.reg y = s.reg y := by rw [← ht]; exact (s.setFb _).setReg_reg_other _ hy
  have index : t.i = s.i := by rw [← ht]; rfl
  have load : ∀ a, t.load a = s.load a := fun a => by rw [← ht]; rfl
  have fb : t.fb = (s.drawn x y n).1 := by rw [← ht]; rfl
  have mask : ∀ px py, SpriteCovers t x y n px py ↔ SpriteCovers s x y n px py := by
    simp only [SpriteCovers, State.indexAddr, xs, ys, index, load, implies_true]
  refine ⟨t, _, first, exec_drw x y (addressesValid_of_rows (index.symm ▸ h)), ?_⟩
  refine Framebuffer.ext_of_pixel fun px py hpx hpy => ?_
  by_cases covers : SpriteCovers s x y n px py
  · refine (State.drawn_pixel_of_covers hpx hpy ((mask px py).2 covers)).trans ?_
    rw [fb, State.drawn_pixel_of_covers hpx hpy covers, Bool.not_not]
  · refine (State.drawn_pixel_of_not_covers hpx hpy (fun c => covers ((mask px py).1 c))).trans ?_
    rw [fb, State.drawn_pixel_of_not_covers hpx hpy covers]

end Sys2Proof.Machine
end
